-- ==== Sys2Proof/Word.lean ====
section
/-! DEFINITION. The words of the Generator core: 00_scope.md rules R6, R8; 30_encoding.md rules R71, R74. -/

namespace Sys2Proof

/-- A state word, an operand, an output: 64 unsigned bits, bit 0 the least significant (R6 `W`, R8). -/
abbrev Word := BitVec 64

/-- One byte of a wrapper's buffer (20_memory.md R56); the core itself has no bytes (R53). -/
abbrev Byte := BitVec 8

/-- A command word `CW` of 132 bits (R6 `CW_W`, R71). -/
abbrev CommandWord := BitVec 132

/-- A response word `RW` of 66 bits (R6 `RW_W`, R74). -/
abbrev ResponseWord := BitVec 66

/-- The pair `(s0, s1)` as the functions `Step`, `Out` and `Jump` take it (R9). -/
abbrev Pair := Word × Word

end Sys2Proof
end

