-- ==== Sys2Proof/Syntax.lean ====
section
/-! DEFINITION. The commands of `XORO128P-CMD-1` (30_encoding.md rule R76) and the assembler's source lines
(rules R81, R82). -/

namespace Sys2Proof

/-- One constructor per row of the opcode map (R76). Only `SEED` reads its operand fields (R72), so only it
carries operands. -/
inductive Instr where
  /-- `SEED a, b` (40_seeding.md R100) -/
  | seed (a b : Word)
  /-- `SEEDD` (40_seeding.md R102) -/
  | seedd
  /-- `SEEDE` (40_seeding.md R104) -/
  | seede
  /-- `NEXT64` (41_output.md R123) -/
  | next64
  /-- `NEXT32` (41_output.md R125) -/
  | next32
  /-- `JUMP` (42_jump.md R143) -/
  | jump
  /-- `RDS0` (43_state_read.md R160) -/
  | rds0
  /-- `RDS1` (43_state_read.md R161) -/
  | rds1
  deriving DecidableEq, Repr

/-- The spellings an assembler line may start with: the eight mnemonics of R76 and the four
pseudo-instructions of R82. -/
inductive Mnemonic where
  | seed | seedd | seede | next64 | next32 | jump | rds0 | rds1
  | reseed | new | discard | rdstate
  deriving DecidableEq, Repr

/-- A line of assembler source after reading its text (R81): a mnemonic and its operand literals, as numbers of
any size. `WellFormed.lean` holds the checks on it. -/
structure SourceLine where
  mnemonic : Mnemonic
  operands : List Nat
  deriving DecidableEq, Repr

/-- The mnemonic of a command, as the opcode map spells it (R76). -/
def Instr.mnemonic : Instr → Mnemonic
  | .seed _ _ => .seed
  | .seedd => .seedd
  | .seede => .seede
  | .next64 => .next64
  | .next32 => .next32
  | .jump => .jump
  | .rds0 => .rds0
  | .rds1 => .rds1

/-- The commands that need a seeded state: they read `VALID` (10_state.md R24). -/
def Instr.needsSeeded : Instr → Bool
  | .seed _ _ => false
  | .seedd => false
  | .seede => false
  | .next64 => true
  | .next32 => true
  | .jump => true
  | .rds0 => true
  | .rds1 => true

/-- The three seeding commands (10_state.md R24 "Set by"). -/
def Instr.isSeeding : Instr → Bool
  | .seed _ _ => true
  | .seedd => true
  | .seede => true
  | .next64 => false
  | .next32 => false
  | .jump => false
  | .rds0 => false
  | .rds1 => false

end Sys2Proof
end

