-- ==== Sys2Proof/WellFormed.lean ====
section
/-! DEFINITION. Well-formedness. A command carries no check of its own ("No validation, no error path", 30_encoding.md
R73: every 64-bit operand is accepted, and `Instr` holds nothing but 64-bit operands). What can be ill-formed is a
line of assembler source: a wrong number of operands, or an operand that does not fit in 64 bits (R81). -/

namespace Sys2Proof

/-- Every term of `Instr` is a command with legal operands (R73, 10_state.md R21). -/
def Instr.wellFormed : Instr → Bool
  | .seed _ _ => true
  | .seedd => true
  | .seede => true
  | .next64 => true
  | .next32 => true
  | .jump => true
  | .rds0 => true
  | .rds1 => true

/-- How many operands a mnemonic takes (R76, R81, R82): two for `SEED` and its two other names, none for the rest. -/
def Mnemonic.arity : Mnemonic → Nat
  | .seed => 2
  | .reseed => 2
  | .new => 2
  | .seedd => 0
  | .seede => 0
  | .next64 => 0
  | .next32 => 0
  | .jump => 0
  | .rds0 => 0
  | .rds1 => 0
  | .discard => 0
  | .rdstate => 0

/-- The number of operands is the mnemonic's (R81 "a wrong number of operands ... is an assembly error"). -/
def SourceLine.arityOk (l : SourceLine) : Bool := l.operands.length == l.mnemonic.arity

/-- Every operand fits in 64 bits (R81 "an operand that does not fit in 64 bits ... is an assembly error"). -/
def SourceLine.rangeOk (l : SourceLine) : Bool := l.operands.all fun n => n < 2 ^ 64

/-- A line the assembler accepts (R81). -/
def SourceLine.wellFormed (l : SourceLine) : Bool := l.arityOk && l.rangeOk

end Sys2Proof
end

