-- ==== Sys2Proof/Decode.lean ====
section
/-! DEFINITION. The command encoding: 30_encoding.md rules R71 to R79. Decoding is a total function of the 132-bit word
(R77); a reserved opcode is refused by name (R78). -/

namespace Sys2Proof

/-- Why a word is no command: its opcode is reserved (R78). -/
inductive DecodeError where
  | reserved (op : BitVec 4)
  deriving DecidableEq, Repr

/-- `CW[131:128]`, the opcode (R71). -/
def opField (cw : CommandWord) : BitVec 4 := cw.extractLsb' 128 4

/-- `CW[127:64]`, the operand `a` (R71). -/
def aField (cw : CommandWord) : Word := cw.extractLsb' 64 64

/-- `CW[63:0]`, the operand `b` (R71). -/
def bField (cw : CommandWord) : Word := cw.extractLsb' 0 64

/-- `CW = {op, a, b}` (R71). -/
def packCommand (op : BitVec 4) (a b : Word) : CommandWord := op ++ (a ++ b)

/-- The opcode of a command (R76). -/
def opcodeOf : Instr → BitVec 4
  | .seed _ _ => 0x1
  | .seedd => 0x2
  | .seede => 0x3
  | .next64 => 0x4
  | .next32 => 0x5
  | .jump => 0x6
  | .rds0 => 0x7
  | .rds1 => 0x8

/-- The row of the opcode map that an opcode names (R76, R77); `0x0` and `0x9` to `0xF` are reserved (R78). -/
def decodeFields (op : BitVec 4) (a b : Word) : Except DecodeError Instr :=
  match op.toNat with
  | 1 => .ok (.seed a b)
  | 2 => .ok .seedd
  | 3 => .ok .seede
  | 4 => .ok .next64
  | 5 => .ok .next32
  | 6 => .ok .jump
  | 7 => .ok .rds0
  | 8 => .ok .rds1
  | _ => .error (.reserved op)

/-- `decode(CW)` (R77). The fields `a`, `b` reach `SEED` only (R72, R73). -/
def decode (cw : CommandWord) : Except DecodeError Instr :=
  decodeFields (opField cw) (aField cw) (bField cw)

/-- The word the assembler makes of a command: unused operand fields are zero (R72, R81). -/
def encode : Instr → CommandWord
  | .seed a b => packCommand 0x1 a b
  | .seedd => packCommand 0x2 0 0
  | .seede => packCommand 0x3 0 0
  | .next64 => packCommand 0x4 0 0
  | .next32 => packCommand 0x5 0 0
  | .jump => packCommand 0x6 0 0
  | .rds0 => packCommand 0x7 0 0
  | .rds1 => packCommand 0x8 0 0

/-- A row of the opcode map in the form of match and mask (R76). -/
structure OpcodeRow where
  mnemonic : Mnemonic
  matchValue : CommandWord
  mask : CommandWord
  deriving DecidableEq, Repr

/-- "For each row the match value is `op * 2^128` and the mask is `0xF * 2^128`" (R76), written out row by row. -/
def opcodeTable : List OpcodeRow :=
  [⟨.seed, 0x100000000000000000000000000000000, 0xf00000000000000000000000000000000⟩,
   ⟨.seedd, 0x200000000000000000000000000000000, 0xf00000000000000000000000000000000⟩,
   ⟨.seede, 0x300000000000000000000000000000000, 0xf00000000000000000000000000000000⟩,
   ⟨.next64, 0x400000000000000000000000000000000, 0xf00000000000000000000000000000000⟩,
   ⟨.next32, 0x500000000000000000000000000000000, 0xf00000000000000000000000000000000⟩,
   ⟨.jump, 0x600000000000000000000000000000000, 0xf00000000000000000000000000000000⟩,
   ⟨.rds0, 0x700000000000000000000000000000000, 0xf00000000000000000000000000000000⟩,
   ⟨.rds1, 0x800000000000000000000000000000000, 0xf00000000000000000000000000000000⟩]

/-- The command word whose bits are `w`, of which the table gives `nbits` (bits above them are 0). A command is one
word of 132 bits, so it has no byte layout (R70, 20_memory.md R53). -/
def tableCommandWord (nbits w : Nat) : CommandWord := BitVec.ofNat 132 (w % 2 ^ nbits)

/-- The command the decoder reads from a word given by the opcode table's numbering of bits; `none` where it refuses. -/
def decodeTableWord (nbits w : Nat) : Option Instr :=
  (decode (tableCommandWord nbits w)).toOption

end Sys2Proof
end

