-- ==== Sys2Proof/Config.lean ====
section
/-! DEFINITION. What the spec leaves open and each implementation or environment fixes. Every constant here has no
body: no proof can find out its value, so what is proved holds for every value (00_scope.md R6, R11; 92_eei_decisions.md
D8, D9, D29, D31). -/

namespace Sys2Proof

/-- One answer of the entropy provider to one draw (00_scope.md R11, 60_exceptions.md R183): two words, or a
failure without detail. -/
inductive DrawAnswer where
  | ok (w0 w1 : Word)
  | err
  deriving DecidableEq, Repr

/-- Which non-zero pair the default seed is, counted from 0: the document prints no value and says only "hand-picked
non-zero constant pair" (R6, D9). There are 2^128 - 1 non-zero pairs, and each is `defaultSeed` for exactly one
index, so the spec's constraint `(DEFAULT_SEED0, DEFAULT_SEED1) != (0, 0)` holds and nothing else is fixed.
DESIGN CHOICE of form; safe (log entry 2). -/
opaque Config.defaultSeedIndex : Fin 340282366920938463463374607431768211455

/-- The 128 bits of the default seed, `DEFAULT_SEED0` the upper half. -/
def Config.defaultSeedBits : BitVec 128 := BitVec.ofNat 128 (Config.defaultSeedIndex.val + 1)

/-- The pair `(DEFAULT_SEED0, DEFAULT_SEED1)` (R6, R27). -/
def Config.defaultSeed : Pair :=
  (Config.defaultSeedBits.extractLsb' 64 64, Config.defaultSeedBits.extractLsb' 0 64)

/-- `HAS_ENTROPY`: whether an entropy provider is attached (R6, D31). The value of the field `hasEntropy` at reset;
DESIGN CHOICE, log entry 3. -/
opaque Config.hasEntropy : Bool

/-- The answers the entropy provider gives to the draws of a run from reset, oldest first: free inputs (R11, D29).
The value of the field `answers` at reset; DESIGN CHOICE, log entry 4. -/
opaque Config.entropyAnswers : List DrawAnswer

/-- What `s0` holds after reset: "unspecified: holds no value; must not be read" (10_state.md R30). A model "must not
assume the words are zero", so the word is opaque; DESIGN CHOICE, unsafe (log entry 1). -/
opaque Config.resetS0 : Word

/-- What `s1` holds after reset, as `Config.resetS0`. -/
opaque Config.resetS1 : Word

end Sys2Proof
end

