-- ==== Sys2Proof/Machine/State.lean ====
section
/-! DEFINITION. The state of one instance of the core and of what it is connected to, and why a step can stop:
10_state.md rules R20 to R31, 30_encoding.md rules R74, R75. Plain data. -/

namespace Sys2Proof.Machine

/-- The status codes by name (R75). -/
inductive Status where
  | ok
  | errEntropy
  | errUnseeded
  | errIllegal
  deriving DecidableEq, Repr

/-- A response word `RW = {status, data}` (R74); `responseWord` gives its 66 bits. -/
structure Response where
  status : Status
  data : Word
  deriving DecidableEq, Repr

/-- The three exceptions (60_exceptions.md R170). -/
inductive ErrorCause where
  /-- raised by `SEEDE` (R171) -/
  | entropySource
  /-- raised by the five commands that need a seeded state (R172) -/
  | notSeeded
  /-- raised by a reserved opcode (R173) -/
  | illegalCommand
  deriving DecidableEq, Repr

/-- The jump engine's registers while a `JUMP` runs (R28, R29 b, c): the accumulators `a0`, `a1` and the pair being
advanced. Local to `Jump`; "need not" be in the state (R28), log entry 7. -/
structure JumpRun where
  a0 : Word
  a1 : Word
  q0 : Word
  q1 : Word
  deriving DecidableEq, Repr

/-- What the redraw loop of `SEEDE` comes to on the answers given so far (40_seeding.md R104, R107). -/
inductive DrawResult where
  /-- a draw was answered with a pair other than `(0, 0)`; `rest` are the answers not used -/
  | drawn (w0 w1 : Word) (rest : List DrawAnswer)
  /-- a draw was answered `Err` (R171); `rest` are the answers not used -/
  | failed (rest : List DrawAnswer)
  /-- a draw is outstanding: every answer given so far was `Ok(0, 0)` (R107) -/
  | waiting
  deriving DecidableEq, Repr

/-- What the core has to do next (20_memory.md R58). -/
inductive Fetched where
  /-- a `SEEDE` is in flight: no command is accepted until it has responded -/
  | inFlight
  /-- no command is presented -/
  | idle
  /-- the host presents the word `cw`; `rest` are its later ones -/
  | command (cw : CommandWord) (rest : List CommandWord)
  deriving DecidableEq, Repr

/-- One instance with its three ports. `s0`, `s1`, `valid` are the core's architectural state (R20, R24: "Between
commands the core holds exactly `s0`, `s1`, `VALID`", R29); `drawPending` is R29 (d); `rsp` is the response port (R74);
the other four are the outside world: parameters of a run (R31). -/
structure State where
  /-- state word `s0`, `x[0]` (R20) -/
  s0 : Word
  /-- state word `s1`, `x[1]` (R20) -/
  s1 : Word
  /-- the seeded flag `VALID` (R24) -/
  valid : Bool
  /-- a `SEEDE` is in flight and its draw has no answer yet (R29 d, 40_seeding.md R107; log entry 8) -/
  drawPending : Bool
  /-- the response to the last command; `none` before the first and while a command is in flight (R70, R74). That it stays on
  the port until the next command is accepted is a DESIGN CHOICE (log entry 5) -/
  rsp : Option Response
  /-- `HAS_ENTROPY` (00_scope.md R6); no step changes it -/
  hasEntropy : Bool
  /-- the entropy provider's answers to the coming draws, oldest first (R11); free inputs -/
  answers : List DrawAnswer
  /-- the host's command words not issued yet, oldest first (R23) -/
  commands : List CommandWord
  /-- the host's index into its command list (R23) -/
  index : Nat
  deriving DecidableEq, Repr

/-- Why the machine stops with a fault. It never does: the core's errors are responses after which it accepts the next
command (60_exceptions.md R176, R177), and a `SEEDE` that never ends is "a hang of the core, not ... a fault"
(40_seeding.md R107). So the type has no constructor (log entry 11). -/
inductive Fault where
  deriving DecidableEq, Repr

/-- Why an instruction has no meaning. -/
inductive Refusal where
  /-- raised by an arm of `exec` whose instruction has no meaning yet, by its mnemonic; safe. No arm of this model
  raises it. -/
  | notModelled (mnemonic : String)
  deriving DecidableEq, Repr

/-- What a meaning answers. -/
abbrev Result := Host.Outcome State Fault Refusal

/-- After reset (R30, 70_reset_and_hazards.md R200): `VALID = 0`, the words without a value (opaque, log entry 1), no
command in flight, no response, the host at index 0. What the provider is and answers is free (log entries 3, 4); the
host has presented nothing (log entry 6). DESIGN CHOICE: every instance that starts here has one and the same `HAS_ENTROPY`
and one and the same answers, which R11 and D29 leave free for each instance; unsafe for claims about two instances from
reset (log entry 17). -/
def State.reset : State where
  s0 := Config.resetS0
  s1 := Config.resetS1
  valid := false
  drawPending := false
  rsp := none
  hasEntropy := Config.hasEntropy
  answers := Config.entropyAnswers
  commands := []
  index := 0

end Sys2Proof.Machine
end

