-- ==== Sys2Proof/Machine/Ops.lean ====
section
/-! DEFINITION. The primitives of the pseudocode (00_scope.md rule R9), the hardwired constants (10_state.md rule R27), the
response word (30_encoding.md rules R74, R75), and the shared operations on a state: `respond`, raising an exception
(60_exceptions.md rule R176), the draws of `SEEDE`, accepting a command. -/

namespace Sys2Proof.Machine

/-! ## Hardwired constants (R27) -/

/-- `ROT_A` (R6, R27). -/
def rotA : Nat := 55

/-- `SHIFT_B` (R6, R27). -/
def shiftB : Nat := 14

/-- `ROT_C` (R6, R27). -/
def rotC : Nat := 36

/-- `JUMP0` (R27, 42_jump.md R140). -/
def jumpConst0 : Word := 0xbeac0467eba5facb

/-- `JUMP1` (R27, 42_jump.md R140). -/
def jumpConst1 : Word := 0xd86b048b86aa9922

/-! ## Arithmetic (R9, 41_output.md R127) -/

/-- `add64(a, b) = (a + b) mod 2^64`: the carry is dropped and recorded nowhere (R127). -/
def add64 (a b : Word) : Word := a + b

/-- `rotl64(v, k)`, `0 < k < 64` (R9). -/
def rotl64 (v : Word) (k : Nat) : Word := v.rotateLeft k

/-- `shl64(v, k)`, `0 <= k < 64`: bits shifted past bit 63 are discarded (R8, R9). -/
def shl64 (v : Word) (k : Nat) : Word := v <<< k

/-- `trunc32(v) = v[31:0]` (R9). -/
def trunc32 (v : Word) : BitVec 32 := v.extractLsb' 0 32

/-- `zext_64` of a 32-bit value (R9). -/
def zext64 (v : BitVec 32) : Word := v.setWidth 64

/-! ## The response word (R74, R75) -/

/-- The two status bits (R75). -/
def statusCode : Status → BitVec 2
  | .ok => 0b00
  | .errEntropy => 0b01
  | .errUnseeded => 0b10
  | .errIllegal => 0b11

/-- The status of two bits (R75): all four codes are assigned. -/
def statusOfCode (c : BitVec 2) : Status :=
  match c.toNat with
  | 0 => .ok
  | 1 => .errEntropy
  | 2 => .errUnseeded
  | _ => .errIllegal

/-- `RW = {status, data}` (R74). -/
def responseWord (r : Response) : ResponseWord := statusCode r.status ++ r.data

/-- The fields of a response word: `RW[65:64]` and `RW[63:0]` (R74). -/
def responseOfWord (w : ResponseWord) : Response :=
  ⟨statusOfCode (w.extractLsb' 64 2), w.extractLsb' 0 64⟩

/-! ## Registers -/

/-- The read of both state words. -/
def State.pair (s : State) : Pair := (s.s0, s.s1)

/-- `(s0, s1) <- (u, v)`: both words in one step (R9). -/
def State.setPair (p : Pair) (s : State) : State := { s with s0 := p.1, s1 := p.2 }

/-! ## Response and exception (R9, 60_exceptions.md R176) -/

/-- `respond(status, data)`: the command is complete and its response is on the port (R9). -/
def respond (st : Status) (d : Word) (s : State) : State :=
  { s with rsp := some ⟨st, d⟩, drawPending := false }

/-- `code(E)` (60_exceptions.md R170). -/
def errorStatus : ErrorCause → Status
  | .entropySource => .errEntropy
  | .notSeeded => .errUnseeded
  | .illegalCommand => .errIllegal

/-- `raise E()`: `respond(code(E), 0)` with no state word and no flag written (R9, R176). Nothing is saved, because there
is nothing to return to; the return is that the core is idle and accepts the next command (R177), so it needs no
operation. -/
def raiseError (e : ErrorCause) (s : State) : State := respond (errorStatus e) 0 s

/-! ## The entropy port (00_scope.md R11, 40_seeding.md R104, R107) -/

/-- The loop `repeat r := EntropyDraw() ... until (w0, w1) != (0, 0)` on the answers of an attached provider: the first
answer that is not `Ok(0, 0)` ends it, and when every answer so far was `Ok(0, 0)` a draw is outstanding. -/
def drawLoop : List DrawAnswer → DrawResult
  | [] => .waiting
  | .err :: rest => .failed rest
  | .ok w0 w1 :: rest => if w0 = 0 ∧ w1 = 0 then drawLoop rest else .drawn w0 w1 rest

/-- The same with `HAS_ENTROPY` (R11, D31): "When `HAS_ENTROPY` is false every `EntropyDraw()` returns `Err`", and no
answer of a provider is used. -/
def drawSeed (attached : Bool) (answers : List DrawAnswer) : DrawResult :=
  if attached then drawLoop answers else .failed answers

/-- Draws already answered are spent (40_seeding.md R105, 20_memory.md R62). -/
def State.setAnswers (rest : List DrawAnswer) (s : State) : State := { s with answers := rest }

/-- `SEEDE` has asked and is not answered: every answer so far is spent, and no response is given (R107).
The waiting state is a DESIGN CHOICE of form (log entry 8). -/
def waitForDraw (s : State) : State :=
  { s with answers := [], drawPending := true, rsp := none }

/-- The provider answers one more draw (R183): an event at the port, between two steps. -/
def provideAnswer (a : DrawAnswer) (s : State) : State := { s with answers := s.answers ++ [a] }

/-! ## The command port (10_state.md R23, 20_memory.md R58) -/

/-- The core accepts the host's command: the host's list is `rest` now, its index one further (R23 "advances by exactly 1
for every command"), and the response to the command before is gone. -/
def accept (rest : List CommandWord) (s : State) : State :=
  { s with commands := rest, index := s.index + 1, rsp := none }

/-- The host presents a word ahead of those of its list: the next one the core accepts (30_encoding.md R70). -/
def present (cw : CommandWord) (s : State) : State := { s with commands := cw :: s.commands }

/-- The next state of a result, where it has one. -/
def nextOf : Result → Option State
  | .next s => some s
  | .fault _ => none
  | .refused _ => none

end Sys2Proof.Machine
end

