-- ==== Sys2Proof/Machine/Transition.lean ====
section
/-! DEFINITION. The three functions of the core: `Step` (41_output.md rule R120), `Out` (R121) and `Jump`
(42_jump.md rule R141). -/

namespace Sys2Proof.Machine

/-- `Step(p0, p1)` (R120): the rotation by 55 is of the old `p0`, the shift by 14 is of `t` and loses its top bits, the new
`s1` is a rotation of `t`. -/
def xoroStep (p : Pair) : Pair :=
  let t := p.2 ^^^ p.1
  (rotl64 p.1 rotA ^^^ t ^^^ shl64 t shiftB, rotl64 t rotC)

/-- `Out(p0, p1) = add64(p0, p1)` (R121). -/
def xoroOut (p : Pair) : Word := add64 p.1 p.2

/-- "The jump distance is 2^64 transitions" (00_scope.md R2). The engine has no such number; statements about it do, and it
is irreducible so that no proof unfolds an iteration of this length. -/
@[irreducible] def jumpDistance : Nat := 2 ^ 64

/-- The start of a jump: accumulators `(0, 0)`, the pair to advance (R141). -/
def jumpStart (p : Pair) : JumpRun := ⟨0, 0, p.1, p.2⟩

/-- One iteration of the jump scan at bit `k` of the constant `c` (R141): accumulate the current pair if the bit is 1, then
advance, always. -/
def jumpIter (c : Word) (r : JumpRun) (k : Nat) : JumpRun :=
  let a : Pair := if c.getLsbD k then (r.a0 ^^^ r.q0, r.a1 ^^^ r.q1) else (r.a0, r.a1)
  let q := xoroStep (r.q0, r.q1)
  ⟨a.1, a.2, q.1, q.2⟩

/-- `for k from 0 to 63 do` over one constant, bit 0 first (R141). -/
def jumpScan (r : JumpRun) (c : Word) : JumpRun := (List.range 64).foldl (jumpIter c) r

/-- `Jump(p0, p1)` (R141): `JUMP0` first; the result is the accumulators alone. -/
def xoroJump (p : Pair) : Pair :=
  let r := [jumpConst0, jumpConst1].foldl jumpScan (jumpStart p)
  (r.a0, r.a1)

end Sys2Proof.Machine
end

