-- ==== Sys2Proof/Machine/Operands.lean ====
section
/-! DEFINITION. Operand forms and response data: 30_encoding.md rules R73, R80. -/

namespace Sys2Proof.Machine

/-- The operands of `SEED`: "taken from the command word exactly as they stand" (R73), `a` for `s0`, `b` for `s1`. -/
def seedOperands (a b : Word) : Pair := (a, b)

/-- `data` of a command that returns no value (R80). -/
def dataNone : Word := 0

/-- `data` of `NEXT64`: all 64 bits of `Out` of the state before the transition (R80). -/
def dataOut64 (p : Pair) : Word := xoroOut p

/-- `data` of `NEXT32`: `zext_64(trunc32(Out))` (R80). -/
def dataOut32 (p : Pair) : Word := zext64 (trunc32 (xoroOut p))

/-- `data` of `RDS0` (R80). -/
def dataWord0 (p : Pair) : Word := p.1

/-- `data` of `RDS1` (R80). -/
def dataWord1 (p : Pair) : Word := p.2

end Sys2Proof.Machine
end

