-- ==== Sys2Proof/Machine/Flags.lean ====
section
/-! DEFINITION. The one flag, `VALID`: 10_state.md rules R24, R25. No command has any other effect on a flag. -/

namespace Sys2Proof.Machine

/-- `VALID <- 1` (R24). No command writes 0. -/
def setValid (s : State) : State := { s with valid := true }

/-- `if VALID = 0 then raise NotSeeded()`, and the rest of the command else (60_exceptions.md R172, R178). -/
def whenSeeded (body : State → State) (s : State) : State :=
  if s.valid then body s else raiseError .notSeeded s

end Sys2Proof.Machine
end

