-- ==== Sys2Proof/Machine/Jump.lean ====
section
/-! DEFINITION. The jump-ahead command `JUMP` (42_jump.md). -/

namespace Sys2Proof.Machine

/-- `JUMP` (R143): atomic, no output value. -/
def execJump (s : State) : Result :=
  .next (whenSeeded (fun u => respond .ok dataNone (u.setPair (xoroJump u.pair))) s)

end Sys2Proof.Machine
end

