-- ==== Sys2Proof/Machine/Seeding.lean ====
section
/-! DEFINITION. The seeding controller: `SEED`, `SEEDD`, `SEEDE` (40_seeding.md). -/

namespace Sys2Proof.Machine

/-- What every seeding command does with its pair: both words and `VALID <- 1` (R100, R102, R104). -/
def seedWith (p : Pair) (s : State) : State := setValid (s.setPair p)

/-- `(s0, s1) <- Step(s0, s1)` (R104, R123, R125). -/
def advance (s : State) : State := s.setPair (xoroStep s.pair)

/-- `SEED a, b` (R100). -/
def execSeed (a b : Word) (s : State) : Result :=
  .next (respond .ok dataNone (seedWith (seedOperands a b) s))

/-- `SEEDD` (R102): no warm-up discard. -/
def execSeedd (s : State) : Result :=
  .next (respond .ok dataNone (seedWith Config.defaultSeed s))

/-- `SEEDE` once its redraw loop has come to `r` (R104): the pair, the flag and exactly one discarded transition; or the
exception with nothing written; or waiting. -/
def seedeOn (r : DrawResult) (s : State) : State :=
  match r with
  | .drawn w0 w1 rest => respond .ok dataNone (advance (seedWith (w0, w1) (s.setAnswers rest)))
  | .failed rest => raiseError .entropySource (s.setAnswers rest)
  | .waiting => waitForDraw s

/-- `SEEDE` (R104, R105, R107). The same operation goes on with a `SEEDE` that is in flight, because the loop keeps nothing
from one draw to the next (R11). -/
def execSeede (s : State) : Result := .next (seedeOn (drawSeed s.hasEntropy s.answers) s)

end Sys2Proof.Machine
end

