-- ==== Sys2Proof/Machine/Output.lean ====
section
/-! DEFINITION. The output commands `NEXT64`, `NEXT32` (41_output.md). -/

namespace Sys2Proof.Machine

/-- `NEXT64` (R123): the data is computed from the state before the transition (R124). -/
def execNext64 (s : State) : Result :=
  .next (whenSeeded (fun u => respond .ok (dataOut64 u.pair) (advance u)) s)

/-- `NEXT32` (R125): the same transition, the low 32 bits. -/
def execNext32 (s : State) : Result :=
  .next (whenSeeded (fun u => respond .ok (dataOut32 u.pair) (advance u)) s)

end Sys2Proof.Machine
end

