-- ==== Sys2Proof/Machine/StateRead.lean ====
section
/-! DEFINITION. The state-read commands `RDS0`, `RDS1` (43_state_read.md). -/

namespace Sys2Proof.Machine

/-- `RDS0` (R160): writes no state. -/
def execRds0 (s : State) : Result :=
  .next (whenSeeded (fun u => respond .ok (dataWord0 u.pair) u) s)

/-- `RDS1` (R161): writes no state. -/
def execRds1 (s : State) : Result :=
  .next (whenSeeded (fun u => respond .ok (dataWord1 u.pair) u) s)

end Sys2Proof.Machine
end

