-- ==== Sys2Proof/Machine/Dispatch.lean ====
section
/-! DEFINITION. One arm per command of the opcode map (30_encoding.md rule R76). -/

namespace Sys2Proof.Machine

def exec (i : Instr) (s : State) : Host.Outcome State Fault Refusal :=
  match i with
  -- seeding (40_seeding.md)
  | .seed a b => Sys2Proof.Machine.execSeed a b s
  | .seedd => Sys2Proof.Machine.execSeedd s
  | .seede => Sys2Proof.Machine.execSeede s
  -- output (41_output.md)
  | .next64 => Sys2Proof.Machine.execNext64 s
  | .next32 => Sys2Proof.Machine.execNext32 s
  -- jump-ahead (42_jump.md)
  | .jump => Sys2Proof.Machine.execJump s
  -- state read (43_state_read.md)
  | .rds0 => Sys2Proof.Machine.execRds0 s
  | .rds1 => Sys2Proof.Machine.execRds1 s

end Sys2Proof.Machine
end

