-- ==== Sys2Proof/Machine/Fetch.lean ====
section
/-! DEFINITION. How a command word reaches the core: 20_memory.md rules R58, R61; 30_encoding.md rules R70, R77, R78. -/

namespace Sys2Proof.Machine

/-- What the core does next: a command in flight first (R58 "the next command starts only after the previous
`respond`"), else the word the host presents, else nothing (60_exceptions.md R192). -/
def fetch (s : State) : Fetched :=
  if s.drawPending then .inFlight
  else match s.commands with
    | [] => .idle
    | cw :: rest => .command cw rest

/-- The accepted word is decoded and run; a reserved opcode raises `IllegalCommand` and nothing else is looked at
(R178). -/
def runWord (cw : CommandWord) (s : State) : Result :=
  match decode cw with
  | .ok i => exec i s
  | .error (.reserved _) => .next (raiseError .illegalCommand s)

/-- The host presents a word to an idle core: no command is in flight, so the next step accepts it. -/
def placeWord (cw : CommandWord) (s : State) : State := { present cw s with drawPending := false }

end Sys2Proof.Machine
end

