-- ==== Sys2Proof/Machine/Step.lean ====
section
/-! DEFINITION. One step of the machine: one command (20_memory.md rule R58), or one more look at the entropy port for a
`SEEDE` in flight (40_seeding.md rule R107), or nothing when no command is presented. -/

namespace Sys2Proof.Machine

/-- One step. A `SEEDE` in flight goes on with its redraw loop on what the provider has answered since; with no new answer
the state repeats: the hang of R107. An idle core "simply holds" its state (60_exceptions.md R192). -/
def step (s : State) : Host.Outcome State Fault Refusal :=
  match fetch s with
  | .inFlight => execSeede s
  | .idle => .next s
  | .command cw rest => runWord cw (accept rest s)

/-- `s` with the word placed where `step` fetches: presented first by the host, no command in flight (a core with a command
in flight accepts none, R58). It stands for the load from outside (log entries 6, 14). -/
def State.withFetchWord (s : State) (nbits w : Nat) : State :=
  placeWord (tableCommandWord nbits w) s

end Sys2Proof.Machine
end

