-- ==== Sys2Proof/Machine/Assembler.lean ====
section
/-! DEFINITION. The assembler: 30_encoding.md rules R81, R82. Text is a list of characters. -/

namespace Sys2Proof.Machine

/-- Why a line is "an assembly error, not an encoding" (R81). -/
inductive AsmError where
  /-- "A mnemonic not listed in rule R76 or R82" -/
  | unknownMnemonic
  /-- an operand that is no literal of R81 -/
  | badLiteral
  /-- "a wrong number of operands" -/
  | operandCount
  /-- "an operand that does not fit in 64 bits" -/
  | operandRange
  deriving DecidableEq, Repr

/-- The commands a mnemonic stands for (R76, and R82 for the pseudo-instructions), its operands read by position. -/
def expand (m : Mnemonic) (a b : Word) : List Instr :=
  match m with
  | .seed => [.seed a b]
  | .reseed => [.seed a b]
  | .new => [.seed a b]
  | .seedd => [.seedd]
  | .seede => [.seede]
  | .next64 => [.next64]
  | .discard => [.next64]
  | .next32 => [.next32]
  | .jump => [.jump]
  | .rds0 => [.rds0]
  | .rds1 => [.rds1]
  | .rdstate => [.rds0, .rds1]

/-- The `k`-th operand as a word; missing operands are zero ("The assembler sets `a` and `b` to zero for commands without
operands", R81). -/
def operandWord (l : SourceLine) (k : Nat) : Word := BitVec.ofNat 64 (l.operands.getD k 0)

/-- A source line to commands (R81, R82). -/
def assembleSource (l : SourceLine) : Except AsmError (List Instr) :=
  if l.arityOk then
    if l.rangeOk then .ok (expand l.mnemonic (operandWord l 0) (operandWord l 1))
    else .error .operandRange
  else .error .operandCount

/-! ## Text (R81) -/

/-- The spelling of a mnemonic, in upper case (R76, R81, R82). -/
def mnemonicText : Mnemonic → List Char
  | .seed => ['S', 'E', 'E', 'D']
  | .seedd => ['S', 'E', 'E', 'D', 'D']
  | .seede => ['S', 'E', 'E', 'D', 'E']
  | .next64 => ['N', 'E', 'X', 'T', '6', '4']
  | .next32 => ['N', 'E', 'X', 'T', '3', '2']
  | .jump => ['J', 'U', 'M', 'P']
  | .rds0 => ['R', 'D', 'S', '0']
  | .rds1 => ['R', 'D', 'S', '1']
  | .reseed => ['R', 'E', 'S', 'E', 'E', 'D']
  | .new => ['N', 'E', 'W']
  | .discard => ['D', 'I', 'S', 'C', 'A', 'R', 'D']
  | .rdstate => ['R', 'D', 'S', 'T', 'A', 'T', 'E']

/-- All mnemonics. -/
def allMnemonics : List Mnemonic :=
  [.seed, .seedd, .seede, .next64, .next32, .jump, .rds0, .rds1, .reseed, .new, .discard, .rdstate]

/-- The mnemonic a word spells. -/
def mnemonicOfText (t : List Char) : Option Mnemonic := allMnemonics.find? fun m => mnemonicText m == t

/-- Blanks between the parts of a line: space and tab (DESIGN CHOICE, log entry 10). -/
def isBlank (c : Char) : Bool := c == ' ' || c == '\t'

/-- A text without the blanks at its two ends. -/
def trimBlanks (t : List Char) : List Char :=
  ((t.dropWhile isBlank).reverse.dropWhile isBlank).reverse

/-- `;` starts a comment that runs to the end of the line (R81). -/
def stripComment (t : List Char) : List Char := t.takeWhile fun c => c != ';'

/-- The pieces of a text between its commas. -/
def splitCommas : List Char → List (List Char)
  | [] => [[]]
  | c :: t =>
    if c == ',' then [] :: splitCommas t
    else match splitCommas t with
      | [] => [[c]]
      | piece :: pieces => (c :: piece) :: pieces

/-- The value of a digit in base 16, either case for `a` to `f` (log entry 10). -/
def digitValue (c : Char) : Option Nat :=
  let n := c.toNat
  if 48 ≤ n ∧ n ≤ 57 then some (n - 48)
  else if 97 ≤ n ∧ n ≤ 102 then some (n - 87)
  else if 65 ≤ n ∧ n ≤ 70 then some (n - 55)
  else none

/-- The number that digits of base `base` spell after a value `acc`; `none` where a character is no such digit. -/
def digitsValue (base : Nat) : Nat → List Char → Option Nat
  | acc, [] => some acc
  | acc, c :: t =>
    match digitValue c with
    | none => none
    | some d => if d < base then digitsValue base (acc * base + d) t else none

/-- An operand literal (R81): `0x` and 1 to 16 hexadecimal digits, or decimal digits. Its range is checked by
`SourceLine.rangeOk`. -/
def literalValue : List Char → Option Nat
  | [] => none
  | ['0', 'x'] => none
  | '0' :: 'x' :: t => if t.length ≤ 16 then digitsValue 16 0 t else none
  | t => digitsValue 10 0 t

/-- The literals of the pieces; `none` where one is no literal. -/
def literalValues : List (List Char) → Option (List Nat)
  | [] => some []
  | piece :: pieces =>
    match literalValue (trimBlanks piece), literalValues pieces with
    | some n, some ns => some (n :: ns)
    | _, _ => none

/-- The operands of a line: no text is no operand. -/
def operandsOfText (t : List Char) : Option (List Nat) :=
  if trimBlanks t == [] then some [] else literalValues (splitCommas t)

/-- `line := mnemonic [ operand "," operand ] [ ";" text ]` (R81). -/
def readLine (text : List Char) : Except AsmError SourceLine :=
  let t := trimBlanks (stripComment text)
  let word := t.takeWhile fun c => !isBlank c
  match mnemonicOfText word with
  | none => .error .unknownMnemonic
  | some m =>
    match operandsOfText (t.drop word.length) with
    | none => .error .badLiteral
    | some ns => .ok ⟨m, ns⟩

/-- A line of text to commands (R81, R82). -/
def assembleLine (text : List Char) : Except AsmError (List Instr) :=
  match readLine text with
  | .error e => .error e
  | .ok l => assembleSource l

/-- "One command per line": the commands of a program, in order; the first bad line is the error. -/
def assembleProgram : List (List Char) → Except AsmError (List Instr)
  | [] => .ok []
  | line :: lines =>
    match assembleLine line with
    | .error e => .error e
    | .ok is =>
      match assembleProgram lines with
      | .error e => .error e
      | .ok js => .ok (is ++ js)

/-- The command words of commands, for a host's list. -/
def commandWords (is : List Instr) : List CommandWord := is.map encode

/-! ## Writing a command as text -/

/-- The character of a hexadecimal digit. -/
def hexChar (d : Nat) : Char := if d < 10 then Char.ofNat (48 + d) else Char.ofNat (87 + d)

/-- The low `k` hexadecimal digits of `n`, most significant first (00_scope.md R8). -/
def hexDigits : Nat → Nat → List Char
  | 0, _ => []
  | k + 1, n => hexChar (n / 16 ^ k % 16) :: hexDigits k n

/-- A word as a literal of 16 digits (R8, R81). -/
def wordText (w : Word) : List Char := '0' :: 'x' :: hexDigits 16 w.toNat

/-- A command as a line of source (R81), operands as hexadecimal literals. -/
def instrText : Instr → List Char
  | .seed a b => mnemonicText .seed ++ ' ' :: wordText a ++ ',' :: ' ' :: wordText b
  | .seedd => mnemonicText .seedd
  | .seede => mnemonicText .seede
  | .next64 => mnemonicText .next64
  | .next32 => mnemonicText .next32
  | .jump => mnemonicText .jump
  | .rds0 => mnemonicText .rds0
  | .rds1 => mnemonicText .rds1

end Sys2Proof.Machine
end

