-- ==== Sys2Proof/Machine/HostProcedures.lean ====
section
/-! DEFINITION. What hosts and wrappers do with commands: a host that picks the next command from the responses seen so far
(10_state.md rule R23), cloning and partitioning (60_exceptions.md rule R191), buffer filling (20_memory.md rule
R56). -/

namespace Sys2Proof.Machine

/-- The host waits until no command is in flight: "the next command starts only after the previous `respond`"
(20_memory.md R58). A `SEEDE` in flight takes its step on the answers given since and has its own response; `none` where it
still waits (40_seeding.md R107; DESIGN CHOICE of form, log entry 16). -/
def awaitIdle (s : State) : Option State :=
  if s.drawPending then
    match nextOf (step s) with
    | none => none
    | some t => if t.drawPending then none else some t
  else some s

/-- One command transaction on an instance (30_encoding.md R70): when no command is in flight any more, the host presents
the word of `i` and the core takes one step, which accepts it. -/
def issue (i : Instr) (s : State) : Option State :=
  match awaitIdle s with
  | none => none
  | some t => nextOf (step (present (encode i) t))

/-- The data of the response on the port, where its status is `OK` (R80: "A host must not use `data` of an error
response"). -/
def okData (s : State) : Option Word :=
  match s.rsp with
  | some ⟨.ok, d⟩ => some d
  | _ => none

/-- One transaction and the data of its response; `none` where the command was refused or a `SEEDE` is
still in flight (DESIGN CHOICE, log entry 16). -/
def transact (i : Instr) (s : State) : Option (Word × State) :=
  match issue i s with
  | none => none
  | some t =>
    match okData t with
    | none => none
    | some d => some (d, t)

/-- A host that picks each command from the responses seen so far, newest first, or stops (R23). -/
abbrev HostStrategy := List Response → Option Instr

/-- At most `n` responses to a host with a strategy, from the responses `seen`: all responses, newest first, and the
state. A `SEEDE` in flight responds before the host picks another command (R58). The run ends early when the host stops or a
command does not respond. -/
def runHost (h : HostStrategy) : Nat → List Response → State → List Response × State
  | 0, seen, s => (seen, s)
  | n + 1, seen, s =>
    if s.drawPending then
      match nextOf (step s) with
      | none => (seen, s)
      | some t =>
        match t.rsp with
        | none => (seen, t)
        | some r => runHost h n (r :: seen) t
    else
      match h seen with
      | none => (seen, s)
      | some i =>
        match issue i s with
        | none => (seen, s)
        | some t =>
          match t.rsp with
          | none => (seen, t)
          | some r => runHost h n (r :: seen) t

/-- To make `b` a clone of seeded `a` (R191): `RDS0` and `RDS1` on `a`, then `SEED u, v` on `b`. -/
def cloneInto (a b : State) : Option (State × State) :=
  match transact .rds0 a with
  | none => none
  | some (u, a1) =>
    match transact .rds1 a1 with
    | none => none
    | some (v, a2) =>
      match transact (.seed u v) b with
      | none => none
      | some (_, b1) => some (a2, b1)

/-- Non-overlapping streams (R191): "for each worker `w` in turn, issue `JUMP` on `P`, then clone `P` into the worker's
instance". -/
def partitionStreams : State → List State → Option (State × List State)
  | p, [] => some (p, [])
  | p, w :: ws =>
    match transact .jump p with
    | none => none
    | some (_, p1) =>
      match cloneInto p1 w with
      | none => none
      | some (p2, w1) =>
        match partitionStreams p2 ws with
        | none => none
        | some (p3, ws1) => some (p3, w1 :: ws1)

/-- `k` `NEXT64` commands in order and their data (R56). -/
def drawChunks : Nat → State → Option (List Word × State)
  | 0, s => some ([], s)
  | k + 1, s =>
    match transact .next64 s with
    | none => none
    | some (v, t) =>
      match drawChunks k t with
      | none => none
      | some (vs, u) => some (v :: vs, u)

/-- `v[8k+7 : 8k]` (R56). -/
def byteOf (v : Word) (k : Nat) : Byte := v.extractLsb' (8 * k) 8

/-- The eight bytes of a chunk, little-endian (R56). -/
def chunkBytes (v : Word) : List Byte := (List.range 8).map (byteOf v)

/-- How many `NEXT64` commands fill `n` bytes: `ceil(n / 8)` (R56). -/
def chunkCount (n : Nat) : Nat := (n + 7) / 8

/-- Buffer filling (R56): the bytes `B[0 .. n-1]` and the state afterwards; the last chunk gives only its low bytes. -/
def fillBytes (n : Nat) (s : State) : Option (List Byte × State) :=
  match drawChunks (chunkCount n) s with
  | none => none
  | some (vs, t) => some ((vs.flatMap chunkBytes).take n, t)

end Sys2Proof.Machine
end

