-- ==== Sys2Proof/Machine/ResetInput.lean ====
section
/-! DEFINITION. The reset input: 70_reset_and_hazards.md rules R200, R201. -/

namespace Sys2Proof.Machine

/-- Asserting reset, at any moment: `VALID = 0`, the words without a value, a command in flight abandoned without a
response. The entropy provider is not touched (R200), and the constants are no state (R27).
DESIGN CHOICES: the host's list and index stay, and no response is on the port (log entries 12, 5); an answer the provider
has given to the draw of the abandoned `SEEDE` is not spent and goes to the next draw (log entry 18). -/
def resetInput (s : State) : State :=
  { s with s0 := Config.resetS0, s1 := Config.resetS1, valid := false, drawPending := false, rsp := none }

end Sys2Proof.Machine
end

