-- ==== Sys2Proof/Machine/Instances.lean ====
section
/-! DEFINITION. Several instances: 60_exceptions.md rule R190, 20_memory.md rule R60. Each has its own state, command and
response path, and its own entropy oracle (92_eei_decisions.md D29; log entry 13). -/

namespace Sys2Proof.Machine

/-- The instances of a system. They have no identifiers inside the cores (R190); the position is the system's. -/
abbrev System := List State

/-- Instance `k` takes a step; the others are not touched. `none` where there is no instance `k`. -/
def stepInstance (k : Nat) (sys : System) : Option System :=
  match sys[k]? with
  | none => none
  | some s =>
    match nextOf (step s) with
    | none => none
    | some t => some (sys.set k t)

/-- Steps of several instances in a given order: one interleaving (R60). -/
def runSystem : List Nat → System → Option System
  | [], sys => some sys
  | k :: ks, sys =>
    match stepInstance k sys with
    | none => none
    | some sys1 => runSystem ks sys1

/-- "Reset of one instance does not touch any other instance" (70_reset_and_hazards.md R200). -/
def resetInstance (k : Nat) (sys : System) : Option System :=
  match sys[k]? with
  | none => none
  | some s => some (sys.set k (resetInput s))

end Sys2Proof.Machine
end

