-- ==== Sys2Proof/Safety.lean ====
section
/-! DEFINITION. What counts as a safe run, and the predicates the statements use. -/

namespace Sys2Proof.Machine

/-- The answers of a draw loop that ends: the premise `ENTROPY_ANSWERS` of 40_seeding.md R107 for one `SEEDE`: some draw is
answered with something other than `Ok(0, 0)`. -/
abbrev EntropyAnswers (answers : List DrawAnswer) : Prop := ∃ a ∈ answers, a ≠ DrawAnswer.ok 0 0

/-- The state is the fixed point `(0, 0)` (41_output.md R122, 00_scope.md R13 "Degenerate stream"). -/
abbrev State.degenerate (s : State) : Prop := s.pair = (0, 0)

/-- A response the program is to blame for: the host broke the boot rule (70_reset_and_hazards.md R203, 60_exceptions.md
R172) or issued a reserved opcode (R173). The machine goes on after it (R177); a program is safe when no step gives
one. DESIGN CHOICE, log entry 11. -/
def programFault (s : State) : Bool :=
  match s.rsp with
  | some ⟨.errUnseeded, _⟩ => true
  | some ⟨.errIllegal, _⟩ => true
  | _ => false

/-- The invariant of the machine: a command in flight has given no response and waits for an attached provider; an error
response carries no data (30_encoding.md R80); `OK` is answered only by a seeded instance and `ERR_UNSEEDED` only by an
unseeded one (10_state.md R24, 60_exceptions.md R172). -/
def State.Inv (s : State) : Prop :=
  (s.drawPending = true → s.rsp = none ∧ s.hasEntropy = true) ∧
  ∀ r, s.rsp = some r →
    (r.status ≠ .ok → r.data = 0) ∧
    (r.status = .ok → s.valid = true) ∧
    (r.status = .errUnseeded → s.valid = false)

/-- Two states whose cores hold the same: `s0`, `s1`, `VALID`, and whether a draw is outstanding (10_state.md R29). -/
def State.SameCore (s t : State) : Prop :=
  s.s0 = t.s0 ∧ s.s1 = t.s1 ∧ s.valid = t.valid ∧ s.drawPending = t.drawPending

/-- Two states connected to the same outside: the same coming commands and the same provider. -/
def State.SameWorld (s t : State) : Prop :=
  s.commands = t.commands ∧ s.hasEntropy = t.hasEntropy ∧ s.answers = t.answers

/-- The response word that the machine presents after `n + 1` steps from `s`, where it presents one. -/
def responseAt (n : Nat) (s : State) : Option ResponseWord :=
  match Sys2Proof.core.run (n + 1) s with
  | .next t => t.rsp.map responseWord
  | .fault _ => none
  | .refused _ => none

end Sys2Proof.Machine
end

