-- ==== Sys2Proof/Certificates/Slice0/Obligations.lean ====
section
/-! DEFINITION. The statements for the provers. A statement that gives `exec i s = .next { s with ... }` says with it that
every field not named keeps its value. -/

open Sys2Proof Sys2Proof.Machine

/-! ## Encoding -/

/-- R71: the command word as bits and as a number, `CW = op * 2^128 + a * 2^64 + b`. -/
def Obligations.CommandWordLayout : Prop :=
  (∀ (op : BitVec 4) (a b : Word),
    (packCommand op a b).toNat = op.toNat * 2 ^ 128 + a.toNat * 2 ^ 64 + b.toNat ∧
    opField (packCommand op a b) = op ∧ aField (packCommand op a b) = a ∧ bField (packCommand op a b) = b) ∧
  ∀ cw : CommandWord,
    packCommand (opField cw) (aField cw) (bField cw) = cw ∧
    (opField cw).toNat = cw.toNat / 2 ^ 128 ∧
    (aField cw).toNat = cw.toNat / 2 ^ 64 % 2 ^ 64 ∧
    (bField cw).toNat = cw.toNat % 2 ^ 64

/-- R77 with the rows of R76: decoding is a total function of the word, the row of its opcode field. -/
def Obligations.DecodeIsOpcodeMap : Prop :=
  ∀ cw : CommandWord,
    (opField cw = 0x1 → decode cw = .ok (.seed (aField cw) (bField cw))) ∧
    (opField cw = 0x2 → decode cw = .ok .seedd) ∧
    (opField cw = 0x3 → decode cw = .ok .seede) ∧
    (opField cw = 0x4 → decode cw = .ok .next64) ∧
    (opField cw = 0x5 → decode cw = .ok .next32) ∧
    (opField cw = 0x6 → decode cw = .ok .jump) ∧
    (opField cw = 0x7 → decode cw = .ok .rds0) ∧
    (opField cw = 0x8 → decode cw = .ok .rds1) ∧
    (opField cw = 0x0 ∨ 0x9 ≤ opField cw → decode cw = .error (.reserved (opField cw)))

/-- R72: for every opcode other than `SEED` the operand fields do not matter, neither for decoding nor for effect and
response; the assembler drives them to zero. -/
def Obligations.UnusedOperandFieldsIgnored : Prop :=
  (∀ cw cw' : CommandWord, opField cw = opField cw' → opField cw ≠ 0x1 →
    decode cw = decode cw' ∧ ∀ s : State, runWord cw s = runWord cw' s) ∧
  ∀ i : Instr, opField (encode i) ≠ 0x1 → aField (encode i) = 0 ∧ bField (encode i) = 0

/-- R76: the table's rows by match and mask select exactly the words that decode to the row's command. -/
def Obligations.OpcodeTableSelectsCommand : Prop :=
  opcodeTable.map (fun row => (row.mnemonic, row.matchValue.toNat)) =
    [(.seed, 1 * 2 ^ 128), (.seedd, 2 * 2 ^ 128), (.seede, 3 * 2 ^ 128), (.next64, 4 * 2 ^ 128),
     (.next32, 5 * 2 ^ 128), (.jump, 6 * 2 ^ 128), (.rds0, 7 * 2 ^ 128), (.rds1, 8 * 2 ^ 128)] ∧
  ∀ row ∈ opcodeTable, row.mask.toNat = 0xF * 2 ^ 128 ∧
    ∀ cw : CommandWord, cw &&& row.mask = row.matchValue ↔
      ∃ i, decode cw = .ok i ∧ i.mnemonic = row.mnemonic

/-- Every command decodes from its own word, with every operand at every value (R71, R76, R77). -/
def Obligations.DecodeEncodeEveryCommand : Prop :=
  ∀ i : Instr, decode (encode i) = .ok i

/-- Words of 95_test_vectors.md T7, read as the spec says. -/
def Obligations.DecodeReadsSpecWords : Prop :=
  decode 0x1aeecf86f7878dd7501cd153642e72622 = .ok (.seed 0xaeecf86f7878dd75 0x01cd153642e72622) ∧
  decode 0x4ffffffffffffffff123456789abcdef0 = .ok .next64 ∧
  decode 0x600000000000000000000000000000000 = .ok .jump ∧
  decode 0x800000000000000000000000000000000 = .ok .rds1 ∧
  decode 0x900000000000000010000000000000002 = .error (.reserved 0x9)

/-- R74, R75: the response word, its status codes, and that a host reads back what was sent. -/
def Obligations.ResponseWordLayout : Prop :=
  (∀ (st : Status) (d : Word),
    (responseWord ⟨st, d⟩).toNat = (statusCode st).toNat * 2 ^ 64 + d.toNat ∧
    responseOfWord (responseWord ⟨st, d⟩) = ⟨st, d⟩) ∧
  (∀ w : ResponseWord, responseWord (responseOfWord w) = w) ∧
  statusCode .ok = 0b00 ∧ statusCode .errEntropy = 0b01 ∧ statusCode .errUnseeded = 0b10 ∧
  statusCode .errIllegal = 0b11

/-! ## The step -/

/-- A step with no command in flight and a presented word that decodes runs the decoded command, on the state after the
word is accepted: one word fewer, the host's index one further, the response port cleared (R58, R61). -/
def Obligations.StepRunsDecodedCommand : Prop :=
  ∀ (s : State) (cw : CommandWord) (rest : List CommandWord) (i : Instr),
    s.drawPending = false → s.commands = cw :: rest → decode cw = .ok i →
    step s = exec i { s with commands := rest, index := s.index + 1, rsp := none }

/-- A step while a `SEEDE` is in flight is that `SEEDE` going on; the presented command waits (R58, R107). That a waiting
`SEEDE` is a state of its own that steps look at again is the model's choice (log entry 8). -/
def Obligations.StepContinuesSeedeInFlight : Prop :=
  ∀ s : State, s.drawPending = true →
    ∃ t, step s = .next t ∧ exec .seede s = .next t ∧ t.commands = s.commands ∧ t.index = s.index

/-- An idle core holds its state (R192, R201); that the response stays on the port is the model's choice (log entry 5). -/
def Obligations.IdleCoreHoldsState : Prop :=
  ∀ s : State, s.drawPending = false → s.commands = [] → step s = .next s

/-- A word with a reserved opcode is answered `ERR_ILLEGAL` with data 0 whatever `VALID` is, and nothing of the core
changes (R78). -/
def Obligations.ReservedOpcodeRaisesIllegal : Prop :=
  ∀ (s : State) (cw : CommandWord) (rest : List CommandWord),
    s.drawPending = false → s.commands = cw :: rest → (opField cw = 0x0 ∨ 0x9 ≤ opField cw) →
    step s = .next { s with commands := rest, index := s.index + 1, rsp := some ⟨.errIllegal, 0⟩ }

/-- From every state every number of steps answers a next state. After an error the core accepts the next command (R176,
R177), and a `SEEDE` that is never answered hangs (R107); that an error response and a waiting `SEEDE` are next states of the
machine, not stops of it, is the model's choice (log entries 11, 8). -/
def Obligations.EveryStepHasNextState : Prop :=
  ∀ (n : Nat) (s : State), ∃ t, Sys2Proof.core.run n s = .next t

/-- An accepted command, of whatever kind and with whatever status, advances the host by exactly one and gives exactly one
response, unless it is a `SEEDE` still waiting, which has given none (R23, R70, R107; the host's list and the waiting state
are the model's, log entries 6, 8). -/
def Obligations.OneResponsePerCommand : Prop :=
  ∀ (s t : State) (cw : CommandWord) (rest : List CommandWord),
    s.drawPending = false → s.commands = cw :: rest → step s = .next t →
    t.commands = rest ∧ t.index = s.index + 1 ∧
    ((∃ r, t.rsp = some r) ∧ t.drawPending = false ∨
      t.rsp = none ∧ t.drawPending = true ∧ decode cw = .ok .seede)

/-! ## Seeding -/

/-- R100: `SEED a, b` from every state. -/
def Obligations.SeedCommand : Prop :=
  (∀ cw : CommandWord, opField cw = 0x1 → decode cw = .ok (.seed (aField cw) (bField cw))) ∧
  ∀ (a b : Word) (s : State),
    exec (.seed a b) s =
      .next { s with s0 := a, s1 := b, valid := true, rsp := some ⟨.ok, 0⟩, drawPending := false }

/-- R101: after `SEED 0, 0`, whatever non-seeding commands follow, every output is 0 and the state stays `(0, 0)`. -/
def Obligations.ZeroSeedGivesZeroStream : Prop :=
  (∀ s : State, ∃ t, exec (.seed 0 0) s = .next t ∧ t.rsp = some ⟨.ok, 0⟩ ∧ t.degenerate ∧ t.valid = true) ∧
  ∀ (is : List Instr) (s : State) (rest : List CommandWord),
    (∀ i ∈ is, i.isSeeding = false) → s.valid = true → s.degenerate → s.drawPending = false →
    s.commands = is.map encode ++ rest →
    ∃ t, Sys2Proof.core.run is.length s = .next t ∧ t.degenerate ∧ t.valid = true ∧
      ∀ k, k < is.length → responseAt k s = some (responseWord ⟨.ok, 0⟩)

/-- R108: what an instance answers from a `SEED` or a `SEEDD` on does not depend on the state before it: it answers as an
instance whose first command after reset is that seeding command. -/
def Obligations.ReseedForgetsPriorState : Prop :=
  ∀ (s : State) (i : Instr) (rest : List CommandWord),
    (∃ a b, i = .seed a b) ∨ i = .seedd → s.drawPending = false → s.commands = encode i :: rest →
    ∀ n, responseAt n s =
      responseAt n { State.reset with
        commands := s.commands, hasEntropy := s.hasEntropy, answers := s.answers }

/-- R102: `SEEDD` from every state; it is `SEED` with the default pair, which is never `(0, 0)`, and there is no warm-up
discard. -/
def Obligations.SeeddCommand : Prop :=
  (∀ cw : CommandWord, opField cw = 0x2 → decode cw = .ok .seedd) ∧
  Config.defaultSeed ≠ (0, 0) ∧
  ∀ s : State,
    exec .seedd s =
      .next { s with s0 := Config.defaultSeed.1, s1 := Config.defaultSeed.2, valid := true,
                     rsp := some ⟨.ok, 0⟩, drawPending := false } ∧
    exec .seedd s = exec (.seed Config.defaultSeed.1 Config.defaultSeed.2) s

/-- R104: `SEEDE`. After any number of draws answered `Ok(0, 0)`, the first pair other than `(0, 0)` is taken and exactly
one transition is discarded; an `Err` on any draw, or no provider, raises `EntropySourceError`. -/
def Obligations.SeedeCommand : Prop :=
  (∀ cw : CommandWord, opField cw = 0x3 → decode cw = .ok .seede) ∧
  (∀ (s : State) (n : Nat) (w0 w1 : Word) (rest : List DrawAnswer),
    s.hasEntropy = true → s.answers = List.replicate n (.ok 0 0) ++ .ok w0 w1 :: rest → (w0, w1) ≠ (0, 0) →
    exec .seede s =
      .next { s with s0 := (xoroStep (w0, w1)).1, s1 := (xoroStep (w0, w1)).2, valid := true,
                     answers := rest, rsp := some ⟨.ok, 0⟩, drawPending := false }) ∧
  (∀ (s : State) (n : Nat) (rest : List DrawAnswer),
    s.hasEntropy = true → s.answers = List.replicate n (.ok 0 0) ++ .err :: rest →
    exec .seede s =
      .next { s with answers := rest, rsp := some ⟨.errEntropy, 0⟩, drawPending := false }) ∧
  ∀ s : State, s.hasEntropy = false →
    exec .seede s = .next { s with rsp := some ⟨.errEntropy, 0⟩, drawPending := false }

/-- R105: after `EntropySourceError` the state words and `VALID` are as before, and the draws answered are spent: what is
left of the answers is a tail of what there was. -/
def Obligations.FailedSeedeKeepsState : Prop :=
  ∀ (s t : State) (r : Response), exec .seede s = .next t → t.rsp = some r → r.status = .errEntropy →
    r.data = 0 ∧ t.s0 = s.s0 ∧ t.s1 = s.s1 ∧ t.valid = s.valid ∧
    ∃ spent, s.answers = spent ++ t.answers ∧ (s.hasEntropy = true → spent ≠ [])

/-- R106: a successful `SEEDE` never leaves `(0, 0)`. -/
def Obligations.SeedeNeverLeavesZero : Prop :=
  ∀ (s t : State), exec .seede s = .next t → t.rsp = some ⟨.ok, 0⟩ → ¬ t.degenerate

/-- R107: a `SEEDE` on an attached provider whose answers so far are all `Ok(0, 0)` (or none) hangs: for every number of
steps it has given no response and the instance has accepted no further command. The draws of a run are a list and a hang is
a state that steps repeat: the model's choice (log entries 4, 8). -/
def Obligations.UnansweredSeedeHangs : Prop :=
  ∀ (s : State), s.hasEntropy = true → ¬ EntropyAnswers s.answers →
    ∃ t, exec .seede s = .next t ∧ t.drawPending = true ∧ t.rsp = none ∧
      ∀ n, ∃ u, Sys2Proof.core.run n t = .next u ∧ u.drawPending = true ∧ u.rsp = none ∧
        u.commands = s.commands ∧ u.s0 = s.s0 ∧ u.s1 = s.s1 ∧ u.valid = s.valid

/-- R107, R212: `SEEDE` completes, that is responds, exactly when there is no provider or `ENTROPY_ANSWERS` holds, of the list
of answers the model keeps (log entry 4). -/
def Obligations.SeedeCompletesIffAnswered : Prop :=
  ∀ s : State, ∃ t, exec .seede s = .next t ∧
    ((∃ r, t.rsp = some r) ∧ t.drawPending = false ↔ s.hasEntropy = false ∨ EntropyAnswers s.answers)

/-- A `SEEDE` that waited and is answered later ends as one whose provider had answered at once (R104, R107, R183; the
waiting state is the model's choice, log entries 4, 8). -/
def Obligations.LateAnswersResumeSeede : Prop :=
  ∀ (s : State) (more : List DrawAnswer), s.hasEntropy = true → ¬ EntropyAnswers s.answers →
    ∃ t, exec .seede s = .next t ∧
      step (more.foldl (fun u a => provideAnswer a u) t) =
        exec .seede (more.foldl (fun u a => provideAnswer a u) s)

/-! ## Transition and output -/

/-- R120, with the notation of R9 in integer arithmetic: the three terms of the new `s0` and the one of the new `s1`. -/
def Obligations.StepFunctionLaw : Prop :=
  ∀ p0 p1 : Word,
    (xoroStep (p0, p1)).1.toNat =
      ((p0.toNat * 2 ^ 55 % 2 ^ 64 + p0.toNat / 2 ^ 9) ^^^ (p1.toNat ^^^ p0.toNat) ^^^
        ((p1.toNat ^^^ p0.toNat) * 2 ^ 14 % 2 ^ 64)) ∧
    (xoroStep (p0, p1)).2.toNat =
      (p1.toNat ^^^ p0.toNat) * 2 ^ 36 % 2 ^ 64 + (p1.toNat ^^^ p0.toNat) / 2 ^ 28

/-- R128: `Step` bit by bit. -/
def Obligations.StepBitByBit : Prop :=
  ∀ (p0 p1 : Word) (i : Nat), i < 64 →
    let t := fun k => p0.getLsbD k ^^ p1.getLsbD k
    (xoroStep (p0, p1)).1.getLsbD i =
      ((p0.getLsbD ((i + 9) % 64) ^^ t i) ^^ (if 14 ≤ i then t (i - 14) else false)) ∧
    (xoroStep (p0, p1)).2.getLsbD i = t ((i + 28) % 64)

/-- R121: `Out` is the sum modulo 2^64: a sum that reaches 2^64 loses exactly that, and nothing is clamped; it is neither
the product nor the XOR; and the carry is recorded nowhere: `NEXT64` on a seeded instance answers the same kind of state
whether or not there is one. -/
def Obligations.OutWrapsModulo : Prop :=
  (∀ p0 p1 : Word, (xoroOut (p0, p1)).toNat = (p0.toNat + p1.toNat) % 2 ^ 64 ∧
    (p0.toNat + p1.toNat < 2 ^ 64 → (xoroOut (p0, p1)).toNat = p0.toNat + p1.toNat) ∧
    (2 ^ 64 ≤ p0.toNat + p1.toNat → (xoroOut (p0, p1)).toNat + 2 ^ 64 = p0.toNat + p1.toNat)) ∧
  (∃ p : Pair, xoroOut p ≠ p.1 * p.2) ∧ (∃ p : Pair, xoroOut p ≠ p.1 ^^^ p.2) ∧
  ∀ s : State, s.valid = true → ∃ t, exec .next64 s = .next t ∧
    ∃ d : Word, t.rsp = some ⟨.ok, d⟩ ∧ d.toNat = (s.s0.toNat + s.s1.toNat) % 2 ^ 64 ∧
      t = { s with s0 := (xoroStep s.pair).1, s1 := (xoroStep s.pair).2, rsp := some ⟨.ok, d⟩,
                   drawPending := false }

/-- The zero state is a fixed point and its stream is all zeros, at every position (R122); no other state comes to it in
any number of transitions, since `Step` is a bijection (R126). -/
def Obligations.ZeroStateIsFixedPoint : Prop :=
  xoroStep (0, 0) = (0, 0) ∧ xoroOut (0, 0) = 0 ∧
  (∀ n, xoroStep^[n] (0, 0) = (0, 0) ∧ xoroOut (xoroStep^[n] (0, 0)) = 0) ∧
  ∀ (n : Nat) (p : Pair), xoroStep^[n] p = (0, 0) → p = (0, 0)

/-- R126: `Step` is linear over XOR and a bijection with the inverse the rule writes out; hence no non-zero pair maps to
`(0, 0)` and no two states merge. `Out` is neither linear nor injective. -/
def Obligations.StepIsLinearBijection : Prop :=
  let back : Pair → Pair := fun n =>
    let t := n.2.rotateLeft 28
    let p0 := (n.1 ^^^ t ^^^ t <<< 14).rotateLeft 9
    (p0, t ^^^ p0)
  (∀ p q : Pair, xoroStep (p.1 ^^^ q.1, p.2 ^^^ q.2) =
    ((xoroStep p).1 ^^^ (xoroStep q).1, (xoroStep p).2 ^^^ (xoroStep q).2)) ∧
  (∀ p : Pair, back (xoroStep p) = p) ∧ (∀ p : Pair, xoroStep (back p) = p) ∧
  (∀ p : Pair, p ≠ (0, 0) → xoroStep p ≠ (0, 0)) ∧ Function.Bijective xoroStep ∧
  (∃ p q : Pair, xoroOut (p.1 ^^^ q.1, p.2 ^^^ q.2) ≠ xoroOut p ^^^ xoroOut q) ∧
  ¬ Function.Injective xoroOut

/-- R127: the law of each operation. -/
def Obligations.ArithmeticLaws : Prop :=
  (∀ a b : Word, (add64 a b).toNat = (a.toNat + b.toNat) % 2 ^ 64) ∧
  (∀ (a b : Word) (i : Nat), (a ^^^ b).getLsbD i = (a.getLsbD i ^^ b.getLsbD i)) ∧
  (∀ (v : Word) (k i : Nat), (k = 55 ∨ k = 36) → i < 64 → (rotl64 v k).getLsbD ((i + k) % 64) = v.getLsbD i) ∧
  (∀ v : Word, (shl64 v 14).toNat = v.toNat * 2 ^ 14 % 2 ^ 64) ∧
  (∀ v : Word, (trunc32 v).toNat = v.toNat % 2 ^ 32 ∧ (zext64 (trunc32 v)).toNat = v.toNat % 2 ^ 32) ∧
  ∀ (w0 w1 : Word) (rest : List DrawAnswer),
    drawLoop (.ok w0 w1 :: rest) = .drawn w0 w1 rest ↔ (w0, w1) ≠ (0, 0)

/-- R123: `NEXT64`: the sum of the state before the transition, then the transition; `NotSeeded` when `VALID = 0`. -/
def Obligations.Next64Command : Prop :=
  (∀ cw : CommandWord, opField cw = 0x4 → decode cw = .ok .next64) ∧
  (∀ s : State, s.valid = false →
    exec .next64 s = .next { s with rsp := some ⟨.errUnseeded, 0⟩, drawPending := false }) ∧
  ∀ s : State, s.valid = true →
    exec .next64 s =
      .next { s with s0 := (xoroStep (s.s0, s.s1)).1, s1 := (xoroStep (s.s0, s.s1)).2,
                     rsp := some ⟨.ok, xoroOut (s.s0, s.s1)⟩, drawPending := false }

/-- R125: `NEXT32`: the low 32 bits of the same output, zero-extended, and the same transition. -/
def Obligations.Next32Command : Prop :=
  (∀ cw : CommandWord, opField cw = 0x5 → decode cw = .ok .next32) ∧
  (∀ s : State, s.valid = false →
    exec .next32 s = .next { s with rsp := some ⟨.errUnseeded, 0⟩, drawPending := false }) ∧
  ∀ s : State, s.valid = true → ∃ d : Word,
    d.toNat = (xoroOut (s.s0, s.s1)).toNat % 2 ^ 32 ∧
    exec .next32 s =
      .next { s with s0 := (xoroStep (s.s0, s.s1)).1, s1 := (xoroStep (s.s0, s.s1)).2,
                     rsp := some ⟨.ok, d⟩, drawPending := false }

/-- R124, R129: a run of output commands returns `Out(Step^i(S))` for `i = 0, 1, ...`, each truncated if its command is
`NEXT32`, and leaves `Step^n(S)`. -/
def Obligations.OutputStream : Prop :=
  ∀ (is : List Instr) (s : State) (rest : List CommandWord),
    (∀ i ∈ is, i = .next64 ∨ i = .next32) → s.valid = true → s.drawPending = false →
    s.commands = is.map encode ++ rest →
    (∃ t, Sys2Proof.core.run is.length s = .next t ∧ t.pair = xoroStep^[is.length] s.pair ∧
      t.valid = true ∧ t.commands = rest) ∧
    ∀ k, (is[k]? = some .next64 →
        responseAt k s = some (responseWord ⟨.ok, xoroOut (xoroStep^[k] s.pair)⟩)) ∧
      (is[k]? = some .next32 →
        responseAt k s = some (responseWord ⟨.ok, zext64 (trunc32 (xoroOut (xoroStep^[k] s.pair)))⟩))

/-- R130: two instances in the same state, one given `n` `NEXT64`, the other `n` `NEXT32`: the states agree after every
command, and the `i`-th data of the second is the low 32 bits of the `i`-th data of the first. -/
def Obligations.TruncationLaw : Prop :=
  ∀ (n : Nat) (s t : State) (rest rest' : List CommandWord),
    s.pair = t.pair → s.valid = true → t.valid = true → s.drawPending = false → t.drawPending = false →
    s.commands = List.replicate n (encode .next64) ++ rest →
    t.commands = List.replicate n (encode .next32) ++ rest' →
    ∀ k, k < n → ∃ (s1 t1 : State) (d e : Word),
      Sys2Proof.core.run (k + 1) s = .next s1 ∧ Sys2Proof.core.run (k + 1) t = .next t1 ∧
      s1.pair = t1.pair ∧ s1.rsp = some ⟨.ok, d⟩ ∧ t1.rsp = some ⟨.ok, e⟩ ∧ e.toNat = d.toNat % 2 ^ 32

/-! ## Jump-ahead -/

/-- R140: the two constants, in this order: using them in the other order, or scanning their bits from the top, gives a
different function. -/
def Obligations.JumpConstantsInOrder : Prop :=
  jumpConst0.toNat = 0xbeac0467eba5facb ∧ jumpConst1.toNat = 0xd86b048b86aa9922 ∧
  (∃ p : Pair, ((jumpScan (jumpScan (jumpStart p) jumpConst1) jumpConst0).a0,
    (jumpScan (jumpScan (jumpStart p) jumpConst1) jumpConst0).a1) ≠ xoroJump p) ∧
  let fromTop := fun (r : JumpRun) (c : Word) => (List.range 64).reverse.foldl (jumpIter c) r
  ∃ p : Pair, ((fromTop (fromTop (jumpStart p) jumpConst0) jumpConst1).a0,
    (fromTop (fromTop (jumpStart p) jumpConst0) jumpConst1).a1) ≠ xoroJump p

/-- R145: `Jump(S)` is the XOR of `Step^j(S)` over the set bits `j` of `J = JUMP1 * 2^64 + JUMP0`, of which there are 64:
37 in `JUMP0` and 27 in `JUMP1`. -/
def Obligations.JumpClosedForm : Prop :=
  let J : Nat := 0xd86b048b86aa9922 * 2 ^ 64 + 0xbeac0467eba5facb
  (∀ p : Pair, xoroJump p =
    ((List.range 128).filter fun j => J.testBit j).foldl
      (fun (acc : Pair) j => (acc.1 ^^^ (xoroStep^[j] p).1, acc.2 ^^^ (xoroStep^[j] p).2)) (0, 0)) ∧
  ((List.range 64).filter fun j => J.testBit j).length = 37 ∧
  ((List.range 128).filter fun j => J.testBit j).length = 64

/-- R142: `Jump(S) = Step^(2^64)(S)` (`jumpDistance` is the number `2^64`), and so the command `JUMP` moves a seeded instance by exactly `2^64` transitions. -/
def Obligations.JumpIsTwoPow64Transitions : Prop :=
  jumpDistance = 2 ^ 64 ∧
  (∀ p : Pair, xoroJump p = xoroStep^[jumpDistance] p) ∧
  ∀ s : State, s.valid = true → ∃ t, exec .jump s = .next t ∧ t.pair = xoroStep^[jumpDistance] s.pair

/-- R146 (a) to (d): zero, linearity, bijection, commutation with `Step`, and twice is `2^65` transitions. -/
def Obligations.JumpProperties : Prop :=
  xoroJump (0, 0) = (0, 0) ∧
  (∀ p q : Pair, xoroJump (p.1 ^^^ q.1, p.2 ^^^ q.2) =
    ((xoroJump p).1 ^^^ (xoroJump q).1, (xoroJump p).2 ^^^ (xoroJump q).2)) ∧
  Function.Bijective xoroJump ∧
  (∀ p : Pair, xoroJump (xoroStep p) = xoroStep (xoroJump p)) ∧
  ∀ p : Pair, xoroJump (xoroJump p) = xoroStep^[2 * jumpDistance] p

/-- R143: `JUMP`: the state is replaced, no output; `NotSeeded` when `VALID = 0`. -/
def Obligations.JumpCommand : Prop :=
  (∀ cw : CommandWord, opField cw = 0x6 → decode cw = .ok .jump) ∧
  (∀ s : State, s.valid = false →
    exec .jump s = .next { s with rsp := some ⟨.errUnseeded, 0⟩, drawPending := false }) ∧
  ∀ s : State, s.valid = true →
    exec .jump s =
      .next { s with s0 := (xoroJump (s.s0, s.s1)).1, s1 := (xoroJump (s.s0, s.s1)).2,
                     rsp := some ⟨.ok, 0⟩, drawPending := false }

/-! ## State read -/

/-- R160: `RDS0` answers `s0` and writes no state; `NotSeeded` when `VALID = 0`. -/
def Obligations.Rds0Command : Prop :=
  (∀ cw : CommandWord, opField cw = 0x7 → decode cw = .ok .rds0) ∧
  (∀ s : State, s.valid = false →
    exec .rds0 s = .next { s with rsp := some ⟨.errUnseeded, 0⟩, drawPending := false }) ∧
  ∀ s : State, s.valid = true →
    exec .rds0 s = .next { s with rsp := some ⟨.ok, s.s0⟩, drawPending := false }

/-- R161: `RDS1` answers `s1` and writes no state; `NotSeeded` when `VALID = 0`. -/
def Obligations.Rds1Command : Prop :=
  (∀ cw : CommandWord, opField cw = 0x8 → decode cw = .ok .rds1) ∧
  (∀ s : State, s.valid = false →
    exec .rds1 s = .next { s with rsp := some ⟨.errUnseeded, 0⟩, drawPending := false }) ∧
  ∀ s : State, s.valid = true →
    exec .rds1 s = .next { s with rsp := some ⟨.ok, s.s1⟩, drawPending := false }

/-! ## Errors, the flag, what depends on what -/

/-- R172: each of the five commands, when `VALID = 0`, answers `{ERR_UNSEEDED, 0}`, writes nothing and performs no
transition, and the response counts as a fault of the program (`programFault`); no other command answers `ERR_UNSEEDED`, and
none does when `VALID = 1`. -/
def Obligations.UnseededCommandsRefused : Prop :=
  (∀ (i : Instr) (s : State),
    (i.needsSeeded = true ↔ i = .next64 ∨ i = .next32 ∨ i = .jump ∨ i = .rds0 ∨ i = .rds1) ∧
    (i.needsSeeded = true → s.valid = false → ∃ t, exec i s = .next t ∧ programFault t = true ∧
      t = { s with rsp := some ⟨.errUnseeded, 0⟩, drawPending := false })) ∧
  ∀ (i : Instr) (s t : State) (r : Response), exec i s = .next t → t.rsp = some r → r.status = .errUnseeded →
    i.needsSeeded = true ∧ s.valid = false

/-- R174: which command can raise what, blank cells and cells with "yes". `SEED` and `SEEDD` raise nothing; `SEEDE` only
`EntropySourceError`, and can; the other five only `NotSeeded`, each can, and nothing once seeded; no assigned opcode raises
`IllegalCommand`, and a reserved one raises nothing else. -/
def Obligations.WhichCommandRaisesWhat : Prop :=
  (∀ (i : Instr) (s t : State) (r : Response), exec i s = .next t → t.rsp = some r →
    r.status ≠ .errIllegal ∧
    (r.status = .errEntropy → i = .seede) ∧
    (r.status = .errUnseeded → i.needsSeeded = true) ∧
    (i ≠ .seede → (i.needsSeeded = true → s.valid = true) → r.status = .ok)) ∧
  (∃ s t : State, exec .seede s = .next t ∧ t.rsp = some ⟨.errEntropy, 0⟩) ∧
  (∀ i : Instr, i.needsSeeded = true → ∃ s t : State, exec i s = .next t ∧ t.rsp = some ⟨.errUnseeded, 0⟩) ∧
  ∀ (cw : CommandWord) (op : BitVec 4), decode cw = .error (.reserved op) →
    ∀ s : State, ∃ t, runWord cw s = .next t ∧ t.rsp = some ⟨.errIllegal, 0⟩

/-- R176: exceptions are precise: a step that ends in an error response leaves `s0`, `s1` and `VALID` exactly as before, and
the response carries data 0. -/
def Obligations.ExceptionsArePrecise : Prop :=
  ∀ (s t : State) (r : Response),
    s.drawPending = true ∨ s.commands ≠ [] → step s = .next t → t.rsp = some r → r.status ≠ .ok →
    t.s0 = s.s0 ∧ t.s1 = s.s1 ∧ t.valid = s.valid ∧ t.drawPending = false ∧ r.data = 0

/-- R178: the order of checks: a reserved opcode is reported whatever `VALID` is; `SEEDE` never reports `NotSeeded`; a
command that needs a seeded state never reports `EntropySourceError`. -/
def Obligations.OrderOfChecks : Prop :=
  (∀ (s : State) (cw : CommandWord) (op : BitVec 4), decode cw = .error (.reserved op) →
    ∃ t, runWord cw s = .next t ∧ t.rsp = some ⟨.errIllegal, 0⟩) ∧
  (∀ (s t : State) (r : Response), exec .seede s = .next t → t.rsp = some r → r.status ≠ .errUnseeded) ∧
  (∀ (i : Instr) (s t : State) (r : Response), i.needsSeeded = true → exec i s = .next t → t.rsp = some r →
    r.status = .ok ∧ s.valid = true ∨ r.status = .errUnseeded ∧ s.valid = false)

/-- R24: `VALID` is set by the seeding commands when they answer `OK` and by nothing else; no step clears it, reset does;
the five commands that read it raise `NotSeeded` when it is 0; the seeding commands do not read it; and `RDS0` tells its
value without changing the core: it answers `OK` exactly when `VALID = 1`. -/
def Obligations.ValidFlagRule : Prop :=
  (∀ s t : State, step s = .next t → s.valid = true → t.valid = true) ∧
  (∀ s : State, (resetInput s).valid = false) ∧
  (∀ (i : Instr) (s t : State), exec i s = .next t → s.valid = false → t.valid = true →
    i.isSeeding = true ∧ t.rsp = some ⟨.ok, 0⟩) ∧
  (∀ (i : Instr) (s t : State), i.isSeeding = true → exec i s = .next t → t.rsp = some ⟨.ok, 0⟩ → t.valid = true) ∧
  (∀ (i : Instr) (s : State), i.needsSeeded = true → s.valid = false →
    ∃ t, exec i s = .next t ∧ t.rsp = some ⟨.errUnseeded, 0⟩) ∧
  (∀ (i : Instr) (s t : State), i.isSeeding = true → exec i s = .next t →
    ∃ u, exec i { s with valid := !s.valid } = .next u ∧ u.rsp = t.rsp ∧ u.s0 = t.s0 ∧ u.s1 = t.s1) ∧
  ∀ s : State, ∃ (t : State) (r : Response), exec .rds0 s = .next t ∧ t.rsp = some r ∧
    (r.status = .ok ↔ s.valid = true) ∧ t.s0 = s.s0 ∧ t.s1 = s.s1 ∧ t.valid = s.valid

/-- No command touches the host's list, the host's index or the presence of a provider, and only `SEEDE` uses draws: it
uses them from the front (R22, R31, R62). -/
def Obligations.CommandsLeaveOutsideAlone : Prop :=
  ∀ (i : Instr) (s t : State), exec i s = .next t →
    t.commands = s.commands ∧ t.index = s.index ∧ t.hasEntropy = s.hasEntropy ∧
    (i ≠ .seede → t.answers = s.answers) ∧ ∃ used, s.answers = used ++ t.answers

/-- R63: what an instance answers is a function of its core, its commands and the oracle's answers, of nothing else: not of
earlier responses, not of how many commands came before. -/
def Obligations.ResponsesAreDetermined : Prop :=
  ∀ s t : State, s.SameCore t → s.SameWorld t → s.drawPending = true ∨ s.commands ≠ [] →
    ∀ n, responseAt n s = responseAt n t

/-- R20: two seeded instances whose `(s0, s1)` are equal give equal responses to equal command sequences that contain no
`SEEDE`, whatever their entropy providers are. -/
def Obligations.EqualStatesEqualResponses : Prop :=
  ∀ s t : State, s.pair = t.pair → s.valid = true → t.valid = true →
    s.drawPending = false → t.drawPending = false → s.commands = t.commands → s.commands ≠ [] →
    (∀ cw ∈ s.commands, decode cw ≠ .ok .seede) →
    ∀ n, responseAt n s = responseAt n t

/-! ## Invariants and reset -/

/-- R30: after reset `VALID` is 0 and no command is in flight; the host's index is 0. That no response is on the port is
deduced from R200 (log entry 5). The words `s0`, `s1` have no stated value and none is claimed. The boot rule (R203): from
reset the five commands that need a seeded state are refused, and a first `SEED a, b` answers `OK` and makes the instance
seeded with `(a, b)`. -/
def Obligations.ResetState : Prop :=
  State.reset.valid = false ∧ State.reset.drawPending = false ∧ State.reset.rsp = none ∧ State.reset.index = 0 ∧
  (∀ (i : Instr) (rest : List CommandWord), i.needsSeeded = true →
    step { State.reset with commands := encode i :: rest } =
      .next { State.reset with commands := rest, index := 1, rsp := some ⟨.errUnseeded, 0⟩ }) ∧
  ∀ (a b : Word) (rest : List CommandWord),
    step { State.reset with commands := encode (.seed a b) :: rest } =
      .next { State.reset with s0 := a, s1 := b, valid := true, commands := rest, index := 1,
                               rsp := some ⟨.ok, 0⟩ }

/-- Asserting reset clears `VALID`, abandons a command in flight and does not touch the provider (R200), and the core then
accepts the next command (R201). The rest is the model's choice: that no response at all is on the port afterwards (log
entry 5), that the host's list and index stay (log entry 12), and that the answers given to the draw of an abandoned `SEEDE`
are not spent (log entry 18). -/
def Obligations.ResetInputRule : Prop :=
  ∀ s : State,
    (resetInput s).valid = false ∧ (resetInput s).drawPending = false ∧ (resetInput s).rsp = none ∧
    (resetInput s).SameWorld s ∧ (resetInput s).index = s.index ∧
    ∀ (i : Instr) (rest : List CommandWord), s.commands = encode i :: rest →
      step (resetInput s) = exec i { resetInput s with commands := rest, index := s.index + 1 }

/-- The machine's invariant is kept by every step, from every state that has it (R24, R80, R107, R172). -/
def Obligations.EveryStepKeepsInvariant : Prop :=
  ∀ s t : State, s.Inv → step s = .next t → t.Inv

/-- The invariant holds at reset, and after the reset input whatever the state was (R200). -/
def Obligations.ResetHasInvariant : Prop := State.reset.Inv ∧ ∀ s : State, (resetInput s).Inv

/-- Only `SEED 0, 0` leads into the degenerate state (R21, R106, R126, R146): a step that does not run that command keeps
"seeded means not `(0, 0)`". -/
def Obligations.OnlyZeroSeedDegenerates : Prop :=
  ∀ s t : State, (s.valid = true → ¬ s.degenerate) →
    (s.drawPending = true ∨ ∀ cw rest, s.commands = cw :: rest → decode cw ≠ .ok (.seed 0 0)) →
    step s = .next t → t.valid = true → ¬ t.degenerate

/-! ## Hosts, wrappers, instances, assembler -/

/-- R56: filling `n` bytes of a seeded instance: `ceil(n / 8)` transitions, and byte `8q + k` is byte `k` of the `q`-th
64-bit output. Filling 0 bytes issues no command, in any state. -/
def Obligations.BufferFillRule : Prop :=
  (∀ s : State, fillBytes 0 s = some ([], s)) ∧
  ∀ (n : Nat) (s : State), s.valid = true → s.drawPending = false →
    ∃ bytes t, fillBytes n s = some (bytes, t) ∧ bytes.length = n ∧
      t.pair = xoroStep^[(n + 7) / 8] s.pair ∧ t.index = s.index + (n + 7) / 8 ∧
      ∀ q k, k < 8 → 8 * q + k < n →
        bytes[8 * q + k]? = some ((xoroOut (xoroStep^[q] s.pair)).extractLsb' (8 * k) 8)

/-- A fill asked for while a `SEEDE` is in flight waits for its response, which is no byte of the fill (R56, R58): the fill of
one byte or more is that of the state in which the `SEEDE` has ended. That the wait is one step, and that there is no fill
while the `SEEDE` still waits, is the model's choice (log entries 8, 16). -/
def Obligations.FillWaitsForSeede : Prop :=
  ∀ (n : Nat) (s : State), 0 < n → s.drawPending = true → ∃ t, step s = .next t ∧
    (t.drawPending = true → fillBytes n s = none) ∧
    (t.drawPending = false → fillBytes n s = fillBytes n t)

/-- R191, cloning: the clone holds the state of the original, whose core is unchanged; an unseeded original cannot be
cloned. -/
def Obligations.CloneCopiesState : Prop :=
  (∀ a b : State, a.valid = true → a.drawPending = false → b.drawPending = false →
    ∃ a1 b1, cloneInto a b = some (a1, b1) ∧ a1.SameCore a ∧ b1.SameCore a) ∧
  ∀ a b : State, a.valid = false → a.drawPending = false → cloneInto a b = none

/-- R191, partitioning: worker `w` (from 1) starts at position `w * 2^64` of the parent's original stream. -/
def Obligations.PartitionStartsStreams : Prop :=
  ∀ (p : State) (ws : List State), p.valid = true → p.drawPending = false → (∀ w ∈ ws, w.drawPending = false) →
    ∃ p1 ws1, partitionStreams p ws = some (p1, ws1) ∧ ws1.length = ws.length ∧
      ∀ (w : Nat) (t : State), ws1[w]? = some t →
        t.valid = true ∧ t.pair = xoroStep^[(w + 1) * jumpDistance] p.pair

/-- R60, R190: in every interleaving of steps of several instances, an instance ends where its own steps alone take it. -/
def Obligations.InstancesAreIndependent : Prop :=
  ∀ (order : List Nat) (sys sys1 : System) (k : Nat) (s : State),
    runSystem order sys = some sys1 → sys[k]? = some s →
    ∃ t, Sys2Proof.core.run (order.count k) s = .next t ∧ sys1[k]? = some t

/-- R82: the four pseudo-instructions. -/
def Obligations.PseudoInstructions : Prop :=
  (∀ a b : Word,
    assembleSource ⟨.reseed, [a.toNat, b.toNat]⟩ = .ok [.seed a b] ∧
    assembleSource ⟨.new, [a.toNat, b.toNat]⟩ = .ok [.seed a b]) ∧
  assembleSource ⟨.discard, []⟩ = .ok [.next64] ∧
  assembleSource ⟨.rdstate, []⟩ = .ok [.rds0, .rds1]

/-- The assembler accepts exactly the well-formed lines, and reads its own text of every command back (R81). -/
def Obligations.AssemblerReadsEveryCommand : Prop :=
  (∀ l : SourceLine, (∃ is, assembleSource l = .ok is) ↔
    l.operands.length = l.mnemonic.arity ∧ ∀ n ∈ l.operands, n < 2 ^ 64) ∧
  ∀ i : Instr, assembleLine (instrText i) = .ok [i]
end

