-- ==== Sys2Proof/Laws/State.lean ====
section
/-! SUPPORT. One lemma per field per update of the state, so that no proof unfolds a record update. -/

namespace Sys2Proof.Machine

/-! ## `State.setPair` -/

@[simp] theorem setPair_s0 (p : Pair) (s : State) : (s.setPair p).s0 = p.1 := rfl
@[simp] theorem setPair_s1 (p : Pair) (s : State) : (s.setPair p).s1 = p.2 := rfl
@[simp] theorem setPair_valid (p : Pair) (s : State) : (s.setPair p).valid = s.valid := rfl
@[simp] theorem setPair_drawPending (p : Pair) (s : State) : (s.setPair p).drawPending = s.drawPending := rfl
@[simp] theorem setPair_rsp (p : Pair) (s : State) : (s.setPair p).rsp = s.rsp := rfl
@[simp] theorem setPair_hasEntropy (p : Pair) (s : State) : (s.setPair p).hasEntropy = s.hasEntropy := rfl
@[simp] theorem setPair_answers (p : Pair) (s : State) : (s.setPair p).answers = s.answers := rfl
@[simp] theorem setPair_commands (p : Pair) (s : State) : (s.setPair p).commands = s.commands := rfl
@[simp] theorem setPair_index (p : Pair) (s : State) : (s.setPair p).index = s.index := rfl

/-! ## `setValid` -/

@[simp] theorem setValid_s0 (s : State) : (setValid s).s0 = s.s0 := rfl
@[simp] theorem setValid_s1 (s : State) : (setValid s).s1 = s.s1 := rfl
@[simp] theorem setValid_valid (s : State) : (setValid s).valid = true := rfl
@[simp] theorem setValid_drawPending (s : State) : (setValid s).drawPending = s.drawPending := rfl
@[simp] theorem setValid_rsp (s : State) : (setValid s).rsp = s.rsp := rfl
@[simp] theorem setValid_hasEntropy (s : State) : (setValid s).hasEntropy = s.hasEntropy := rfl
@[simp] theorem setValid_answers (s : State) : (setValid s).answers = s.answers := rfl
@[simp] theorem setValid_commands (s : State) : (setValid s).commands = s.commands := rfl
@[simp] theorem setValid_index (s : State) : (setValid s).index = s.index := rfl

/-! ## `State.setAnswers` -/

@[simp] theorem setAnswers_s0 (rest : List DrawAnswer) (s : State) : (s.setAnswers rest).s0 = s.s0 := rfl
@[simp] theorem setAnswers_s1 (rest : List DrawAnswer) (s : State) : (s.setAnswers rest).s1 = s.s1 := rfl
@[simp] theorem setAnswers_valid (rest : List DrawAnswer) (s : State) : (s.setAnswers rest).valid = s.valid := rfl
@[simp] theorem setAnswers_drawPending (rest : List DrawAnswer) (s : State) : (s.setAnswers rest).drawPending = s.drawPending := rfl
@[simp] theorem setAnswers_rsp (rest : List DrawAnswer) (s : State) : (s.setAnswers rest).rsp = s.rsp := rfl
@[simp] theorem setAnswers_hasEntropy (rest : List DrawAnswer) (s : State) : (s.setAnswers rest).hasEntropy = s.hasEntropy := rfl
@[simp] theorem setAnswers_answers (rest : List DrawAnswer) (s : State) : (s.setAnswers rest).answers = rest := rfl
@[simp] theorem setAnswers_commands (rest : List DrawAnswer) (s : State) : (s.setAnswers rest).commands = s.commands := rfl
@[simp] theorem setAnswers_index (rest : List DrawAnswer) (s : State) : (s.setAnswers rest).index = s.index := rfl

/-! ## `respond` -/

@[simp] theorem respond_s0 (st : Status) (d : Word) (s : State) : (respond st d s).s0 = s.s0 := rfl
@[simp] theorem respond_s1 (st : Status) (d : Word) (s : State) : (respond st d s).s1 = s.s1 := rfl
@[simp] theorem respond_valid (st : Status) (d : Word) (s : State) : (respond st d s).valid = s.valid := rfl
@[simp] theorem respond_drawPending (st : Status) (d : Word) (s : State) : (respond st d s).drawPending = false := rfl
@[simp] theorem respond_rsp (st : Status) (d : Word) (s : State) : (respond st d s).rsp = some ⟨st, d⟩ := rfl
@[simp] theorem respond_hasEntropy (st : Status) (d : Word) (s : State) : (respond st d s).hasEntropy = s.hasEntropy := rfl
@[simp] theorem respond_answers (st : Status) (d : Word) (s : State) : (respond st d s).answers = s.answers := rfl
@[simp] theorem respond_commands (st : Status) (d : Word) (s : State) : (respond st d s).commands = s.commands := rfl
@[simp] theorem respond_index (st : Status) (d : Word) (s : State) : (respond st d s).index = s.index := rfl

/-! ## `raiseError` -/

@[simp] theorem raiseError_s0 (e : ErrorCause) (s : State) : (raiseError e s).s0 = s.s0 := rfl
@[simp] theorem raiseError_s1 (e : ErrorCause) (s : State) : (raiseError e s).s1 = s.s1 := rfl
@[simp] theorem raiseError_valid (e : ErrorCause) (s : State) : (raiseError e s).valid = s.valid := rfl
@[simp] theorem raiseError_drawPending (e : ErrorCause) (s : State) : (raiseError e s).drawPending = false := rfl
@[simp] theorem raiseError_rsp (e : ErrorCause) (s : State) : (raiseError e s).rsp = some ⟨errorStatus e, 0⟩ := rfl
@[simp] theorem raiseError_hasEntropy (e : ErrorCause) (s : State) : (raiseError e s).hasEntropy = s.hasEntropy := rfl
@[simp] theorem raiseError_answers (e : ErrorCause) (s : State) : (raiseError e s).answers = s.answers := rfl
@[simp] theorem raiseError_commands (e : ErrorCause) (s : State) : (raiseError e s).commands = s.commands := rfl
@[simp] theorem raiseError_index (e : ErrorCause) (s : State) : (raiseError e s).index = s.index := rfl

/-! ## `waitForDraw` -/

@[simp] theorem waitForDraw_s0 (s : State) : (waitForDraw s).s0 = s.s0 := rfl
@[simp] theorem waitForDraw_s1 (s : State) : (waitForDraw s).s1 = s.s1 := rfl
@[simp] theorem waitForDraw_valid (s : State) : (waitForDraw s).valid = s.valid := rfl
@[simp] theorem waitForDraw_drawPending (s : State) : (waitForDraw s).drawPending = true := rfl
@[simp] theorem waitForDraw_rsp (s : State) : (waitForDraw s).rsp = none := rfl
@[simp] theorem waitForDraw_hasEntropy (s : State) : (waitForDraw s).hasEntropy = s.hasEntropy := rfl
@[simp] theorem waitForDraw_answers (s : State) : (waitForDraw s).answers = [] := rfl
@[simp] theorem waitForDraw_commands (s : State) : (waitForDraw s).commands = s.commands := rfl
@[simp] theorem waitForDraw_index (s : State) : (waitForDraw s).index = s.index := rfl

/-! ## `provideAnswer` -/

@[simp] theorem provideAnswer_s0 (a : DrawAnswer) (s : State) : (provideAnswer a s).s0 = s.s0 := rfl
@[simp] theorem provideAnswer_s1 (a : DrawAnswer) (s : State) : (provideAnswer a s).s1 = s.s1 := rfl
@[simp] theorem provideAnswer_valid (a : DrawAnswer) (s : State) : (provideAnswer a s).valid = s.valid := rfl
@[simp] theorem provideAnswer_drawPending (a : DrawAnswer) (s : State) : (provideAnswer a s).drawPending = s.drawPending := rfl
@[simp] theorem provideAnswer_rsp (a : DrawAnswer) (s : State) : (provideAnswer a s).rsp = s.rsp := rfl
@[simp] theorem provideAnswer_hasEntropy (a : DrawAnswer) (s : State) : (provideAnswer a s).hasEntropy = s.hasEntropy := rfl
@[simp] theorem provideAnswer_answers (a : DrawAnswer) (s : State) : (provideAnswer a s).answers = s.answers ++ [a] := rfl
@[simp] theorem provideAnswer_commands (a : DrawAnswer) (s : State) : (provideAnswer a s).commands = s.commands := rfl
@[simp] theorem provideAnswer_index (a : DrawAnswer) (s : State) : (provideAnswer a s).index = s.index := rfl

/-! ## `accept` -/

@[simp] theorem accept_s0 (rest : List CommandWord) (s : State) : (accept rest s).s0 = s.s0 := rfl
@[simp] theorem accept_s1 (rest : List CommandWord) (s : State) : (accept rest s).s1 = s.s1 := rfl
@[simp] theorem accept_valid (rest : List CommandWord) (s : State) : (accept rest s).valid = s.valid := rfl
@[simp] theorem accept_drawPending (rest : List CommandWord) (s : State) : (accept rest s).drawPending = s.drawPending := rfl
@[simp] theorem accept_rsp (rest : List CommandWord) (s : State) : (accept rest s).rsp = none := rfl
@[simp] theorem accept_hasEntropy (rest : List CommandWord) (s : State) : (accept rest s).hasEntropy = s.hasEntropy := rfl
@[simp] theorem accept_answers (rest : List CommandWord) (s : State) : (accept rest s).answers = s.answers := rfl
@[simp] theorem accept_commands (rest : List CommandWord) (s : State) : (accept rest s).commands = rest := rfl
@[simp] theorem accept_index (rest : List CommandWord) (s : State) : (accept rest s).index = s.index + 1 := rfl

/-! ## `present` -/

@[simp] theorem present_s0 (cw : CommandWord) (s : State) : (present cw s).s0 = s.s0 := rfl
@[simp] theorem present_s1 (cw : CommandWord) (s : State) : (present cw s).s1 = s.s1 := rfl
@[simp] theorem present_valid (cw : CommandWord) (s : State) : (present cw s).valid = s.valid := rfl
@[simp] theorem present_drawPending (cw : CommandWord) (s : State) : (present cw s).drawPending = s.drawPending := rfl
@[simp] theorem present_rsp (cw : CommandWord) (s : State) : (present cw s).rsp = s.rsp := rfl
@[simp] theorem present_hasEntropy (cw : CommandWord) (s : State) : (present cw s).hasEntropy = s.hasEntropy := rfl
@[simp] theorem present_answers (cw : CommandWord) (s : State) : (present cw s).answers = s.answers := rfl
@[simp] theorem present_commands (cw : CommandWord) (s : State) : (present cw s).commands = cw :: s.commands := rfl
@[simp] theorem present_index (cw : CommandWord) (s : State) : (present cw s).index = s.index := rfl

/-! ## `placeWord` -/

@[simp] theorem placeWord_s0 (cw : CommandWord) (s : State) : (placeWord cw s).s0 = s.s0 := rfl
@[simp] theorem placeWord_s1 (cw : CommandWord) (s : State) : (placeWord cw s).s1 = s.s1 := rfl
@[simp] theorem placeWord_valid (cw : CommandWord) (s : State) : (placeWord cw s).valid = s.valid := rfl
@[simp] theorem placeWord_drawPending (cw : CommandWord) (s : State) : (placeWord cw s).drawPending = false := rfl
@[simp] theorem placeWord_rsp (cw : CommandWord) (s : State) : (placeWord cw s).rsp = s.rsp := rfl
@[simp] theorem placeWord_hasEntropy (cw : CommandWord) (s : State) : (placeWord cw s).hasEntropy = s.hasEntropy := rfl
@[simp] theorem placeWord_answers (cw : CommandWord) (s : State) : (placeWord cw s).answers = s.answers := rfl
@[simp] theorem placeWord_commands (cw : CommandWord) (s : State) : (placeWord cw s).commands = cw :: s.commands := rfl
@[simp] theorem placeWord_index (cw : CommandWord) (s : State) : (placeWord cw s).index = s.index := rfl

/-! ## `resetInput` -/

@[simp] theorem resetInput_s0 (s : State) : (resetInput s).s0 = Config.resetS0 := rfl
@[simp] theorem resetInput_s1 (s : State) : (resetInput s).s1 = Config.resetS1 := rfl
@[simp] theorem resetInput_valid (s : State) : (resetInput s).valid = false := rfl
@[simp] theorem resetInput_drawPending (s : State) : (resetInput s).drawPending = false := rfl
@[simp] theorem resetInput_rsp (s : State) : (resetInput s).rsp = none := rfl
@[simp] theorem resetInput_hasEntropy (s : State) : (resetInput s).hasEntropy = s.hasEntropy := rfl
@[simp] theorem resetInput_answers (s : State) : (resetInput s).answers = s.answers := rfl
@[simp] theorem resetInput_commands (s : State) : (resetInput s).commands = s.commands := rfl
@[simp] theorem resetInput_index (s : State) : (resetInput s).index = s.index := rfl

/-! ## `seedWith` -/

@[simp] theorem seedWith_s0 (p : Pair) (s : State) : (seedWith p s).s0 = p.1 := rfl
@[simp] theorem seedWith_s1 (p : Pair) (s : State) : (seedWith p s).s1 = p.2 := rfl
@[simp] theorem seedWith_valid (p : Pair) (s : State) : (seedWith p s).valid = true := rfl
@[simp] theorem seedWith_drawPending (p : Pair) (s : State) : (seedWith p s).drawPending = s.drawPending := rfl
@[simp] theorem seedWith_rsp (p : Pair) (s : State) : (seedWith p s).rsp = s.rsp := rfl
@[simp] theorem seedWith_hasEntropy (p : Pair) (s : State) : (seedWith p s).hasEntropy = s.hasEntropy := rfl
@[simp] theorem seedWith_answers (p : Pair) (s : State) : (seedWith p s).answers = s.answers := rfl
@[simp] theorem seedWith_commands (p : Pair) (s : State) : (seedWith p s).commands = s.commands := rfl
@[simp] theorem seedWith_index (p : Pair) (s : State) : (seedWith p s).index = s.index := rfl

/-! ## `advance` -/

@[simp] theorem advance_s0 (s : State) : (advance s).s0 = (xoroStep s.pair).1 := rfl
@[simp] theorem advance_s1 (s : State) : (advance s).s1 = (xoroStep s.pair).2 := rfl
@[simp] theorem advance_valid (s : State) : (advance s).valid = s.valid := rfl
@[simp] theorem advance_drawPending (s : State) : (advance s).drawPending = s.drawPending := rfl
@[simp] theorem advance_rsp (s : State) : (advance s).rsp = s.rsp := rfl
@[simp] theorem advance_hasEntropy (s : State) : (advance s).hasEntropy = s.hasEntropy := rfl
@[simp] theorem advance_answers (s : State) : (advance s).answers = s.answers := rfl
@[simp] theorem advance_commands (s : State) : (advance s).commands = s.commands := rfl
@[simp] theorem advance_index (s : State) : (advance s).index = s.index := rfl

/-! ## The pair -/

@[simp] theorem pair_eq (s : State) : s.pair = (s.s0, s.s1) := rfl

end Sys2Proof.Machine
end

