-- ==== Sys2Proof/Laws/Ops.lean ====
section
/-! SUPPORT. What each shared operation can do, said once: `whenSeeded`, the redraw loop, `seedeOn`, `exec`. -/

namespace Sys2Proof.Machine

/-! ## `whenSeeded` (60_exceptions.md R172) -/

theorem whenSeeded_of_valid {s : State} (h : s.valid = true) (body : State → State) :
    whenSeeded body s = body s := by simp [whenSeeded, h]

theorem whenSeeded_of_not_valid {s : State} (h : s.valid = false) (body : State → State) :
    whenSeeded body s = raiseError .notSeeded s := by simp [whenSeeded, h]

/-! ## The redraw loop (40_seeding.md R104, R107) -/

/-- A draw of `(0, 0)` costs one more draw and nothing else. -/
theorem drawLoop_zero (rest : List DrawAnswer) : drawLoop (.ok 0 0 :: rest) = drawLoop rest :=
  if_pos ⟨rfl, rfl⟩

theorem drawLoop_replicate_zero (n : Nat) (rest : List DrawAnswer) :
    drawLoop (List.replicate n (.ok 0 0) ++ rest) = drawLoop rest := by
  induction n with
  | zero => rfl
  | succ n ih => rw [List.replicate_succ, List.cons_append, drawLoop_zero, ih]

theorem drawLoop_nonzero {w0 w1 : Word} (h : (w0, w1) ≠ (0, 0)) (rest : List DrawAnswer) :
    drawLoop (.ok w0 w1 :: rest) = .drawn w0 w1 rest :=
  if_neg fun ⟨h0, h1⟩ => h (by rw [h0, h1])

/-- Everything the redraw loop can come to: some zero draws, and then a pair, a failure, or no answer. -/
theorem drawLoop_cases (as : List DrawAnswer) :
    ∃ n, (∃ w0 w1 rest, as = List.replicate n (.ok 0 0) ++ .ok w0 w1 :: rest ∧ (w0, w1) ≠ (0, 0) ∧
          drawLoop as = .drawn w0 w1 rest) ∨
      (∃ rest, as = List.replicate n (.ok 0 0) ++ .err :: rest ∧ drawLoop as = .failed rest) ∨
      (as = List.replicate n (.ok 0 0) ∧ drawLoop as = .waiting) := by
  induction as with
  | nil => exact ⟨0, .inr (.inr ⟨rfl, rfl⟩)⟩
  | cons a as ih =>
    cases a with
    | err => exact ⟨0, .inr (.inl ⟨as, rfl, rfl⟩)⟩
    | ok w0 w1 =>
      by_cases h : (w0, w1) = (0, 0)
      · obtain ⟨rfl, rfl⟩ := Prod.mk.inj h
        obtain ⟨n, ⟨v0, v1, rest, rfl, hv, hl⟩ | ⟨rest, rfl, hl⟩ | ⟨rfl, hl⟩⟩ := ih
        · exact ⟨n + 1, .inl ⟨v0, v1, rest, rfl, hv, by rw [drawLoop_zero, hl]⟩⟩
        · exact ⟨n + 1, .inr (.inl ⟨rest, rfl, by rw [drawLoop_zero, hl]⟩)⟩
        · exact ⟨n + 1, .inr (.inr ⟨rfl, by rw [drawLoop_zero, hl]⟩)⟩
      · exact ⟨0, .inl ⟨w0, w1, as, rfl, h, drawLoop_nonzero h as⟩⟩

theorem drawSeed_attached {s : State} (h : s.hasEntropy = true) :
    drawSeed s.hasEntropy s.answers = drawLoop s.answers := by simp [drawSeed, h]

theorem drawSeed_absent {s : State} (h : s.hasEntropy = false) :
    drawSeed s.hasEntropy s.answers = .failed s.answers := by simp [drawSeed, h]

/-- The answers a redraw loop leaves are the end of what there was. -/
theorem drawSeed_rest {s : State} {rest : List DrawAnswer}
    (h : (∃ w0 w1, drawSeed s.hasEntropy s.answers = .drawn w0 w1 rest) ∨
      drawSeed s.hasEntropy s.answers = .failed rest) :
    ∃ used, s.answers = used ++ rest := by
  cases he : s.hasEntropy with
  | false =>
    rw [drawSeed_absent he] at h
    obtain ⟨_, _, h⟩ | h := h
    · cases h
    · exact ⟨[], by simpa using h⟩
  | true =>
    rw [drawSeed_attached he] at h
    obtain ⟨n, ⟨v0, v1, r, hs, _, hl⟩ | ⟨r, hs, hl⟩ | ⟨_, hl⟩⟩ := drawLoop_cases s.answers
    · rw [hl] at h
      obtain ⟨_, _, h⟩ | h := h
      · cases h
        exact ⟨List.replicate n (.ok 0 0) ++ [.ok v0 v1], by simp [hs]⟩
      · cases h
    · rw [hl] at h
      obtain ⟨_, _, h⟩ | h := h
      · cases h
      · cases h
        exact ⟨List.replicate n (.ok 0 0) ++ [.err], by simp [hs]⟩
    · rw [hl] at h
      obtain ⟨_, _, h⟩ | h := h <;> cases h

/-! ## `seedeOn` -/

@[simp] theorem seedeOn_commands (r : DrawResult) (s : State) : (seedeOn r s).commands = s.commands := by
  cases r <;> rfl

@[simp] theorem seedeOn_index (r : DrawResult) (s : State) : (seedeOn r s).index = s.index := by
  cases r <;> rfl

@[simp] theorem seedeOn_hasEntropy (r : DrawResult) (s : State) : (seedeOn r s).hasEntropy = s.hasEntropy := by
  cases r <;> rfl

/-! ## `exec` -/

/-- Every meaning as the state it leads to. -/
def execState : Instr → State → State
  | .seed a b, s => respond .ok dataNone (seedWith (seedOperands a b) s)
  | .seedd, s => respond .ok dataNone (seedWith Config.defaultSeed s)
  | .seede, s => seedeOn (drawSeed s.hasEntropy s.answers) s
  | .next64, s => whenSeeded (fun u => respond .ok (dataOut64 u.pair) (advance u)) s
  | .next32, s => whenSeeded (fun u => respond .ok (dataOut32 u.pair) (advance u)) s
  | .jump, s => whenSeeded (fun u => respond .ok dataNone (u.setPair (xoroJump u.pair))) s
  | .rds0, s => whenSeeded (fun u => respond .ok (dataWord0 u.pair) u) s
  | .rds1, s => whenSeeded (fun u => respond .ok (dataWord1 u.pair) u) s

theorem exec_eq (i : Instr) (s : State) : exec i s = .next (execState i s) := by cases i <;> rfl

/-- What a command answers is the state it leads to. -/
theorem exec_next_iff {i : Instr} {s t : State} : exec i s = .next t ↔ execState i s = t := by
  rw [exec_eq, Host.Outcome.next.injEq]

theorem execState_seede (s : State) :
    execState .seede s = seedeOn (drawSeed s.hasEntropy s.answers) s := rfl

/-- A command that needs a seeded state, in an unseeded instance (60_exceptions.md R172). -/
theorem execState_unseeded {i : Instr} {s : State} (hi : i.needsSeeded = true) (h : s.valid = false) :
    execState i s = raiseError .notSeeded s := by
  cases i with
  | seed a b => cases hi
  | seedd => cases hi
  | seede => cases hi
  | next64 => rw [execState, whenSeeded_of_not_valid h]
  | next32 => rw [execState, whenSeeded_of_not_valid h]
  | jump => rw [execState, whenSeeded_of_not_valid h]
  | rds0 => rw [execState, whenSeeded_of_not_valid h]
  | rds1 => rw [execState, whenSeeded_of_not_valid h]

end Sys2Proof.Machine
end

