-- ==== Sys2Proof/Laws/Step.lean ====
section
/-! SUPPORT. What a step can do, said once. -/

namespace Sys2Proof.Machine

/-- What the core does with an accepted word, as the state it leads to. -/
def wordState (cw : CommandWord) (s : State) : State :=
  match decode cw with
  | .ok i => execState i s
  | .error _ => raiseError .illegalCommand s

theorem runWord_eq (cw : CommandWord) (s : State) : runWord cw s = .next (wordState cw s) := by
  unfold runWord wordState
  rcases decode cw with ⟨⟨op⟩⟩ | i
  · rfl
  · exact exec_eq i s

theorem wordState_ok {cw : CommandWord} {i : Instr} (h : decode cw = .ok i) (s : State) :
    wordState cw s = execState i s := by simp [wordState, h]

theorem wordState_error {cw : CommandWord} {e : DecodeError} (h : decode cw = .error e) (s : State) :
    wordState cw s = raiseError .illegalCommand s := by simp [wordState, h]

theorem step_inFlight {s : State} (h : s.drawPending = true) : step s = .next (execState .seede s) := by
  simp only [step, fetch, h, if_true]
  exact exec_eq .seede s

theorem step_idle {s : State} (h : s.drawPending = false) (hc : s.commands = []) : step s = .next s := by
  simp [step, fetch, h, hc]

theorem step_command {s : State} {cw : CommandWord} {rest : List CommandWord} (h : s.drawPending = false)
    (hc : s.commands = cw :: rest) : step s = .next (wordState cw (accept rest s)) := by
  simp [step, fetch, h, hc, runWord_eq]

/-- Everything a step can do: go on with a `SEEDE`, hold, or run the presented word. -/
theorem step_cases {s t : State} (h : step s = .next t) :
    (s.drawPending = true ∧ t = execState .seede s) ∨
    (s.drawPending = false ∧ s.commands = [] ∧ t = s) ∨
    (∃ cw rest i, s.drawPending = false ∧ s.commands = cw :: rest ∧ decode cw = .ok i ∧
      t = execState i (accept rest s)) ∨
    (∃ cw rest e, s.drawPending = false ∧ s.commands = cw :: rest ∧ decode cw = .error e ∧
      t = raiseError .illegalCommand (accept rest s)) := by
  cases hp : s.drawPending with
  | true =>
    rw [step_inFlight hp] at h
    exact .inl ⟨rfl, by cases h; rfl⟩
  | false =>
    cases hc : s.commands with
    | nil =>
      rw [step_idle hp hc] at h
      exact .inr (.inl ⟨rfl, rfl, by cases h; rfl⟩)
    | cons cw rest =>
      rw [step_command hp hc] at h
      cases h
      cases hd : decode cw with
      | ok i => exact .inr (.inr (.inl ⟨cw, rest, i, rfl, rfl, hd, wordState_ok hd _⟩))
      | error e => exact .inr (.inr (.inr ⟨cw, rest, e, rfl, rfl, hd, wordState_error hd _⟩))

/-- A step as the state it leads to. -/
def stepState (s : State) : State :=
  if s.drawPending then execState .seede s
  else match s.commands with
    | [] => s
    | cw :: rest => wordState cw (accept rest s)

theorem step_eq (s : State) : step s = .next (stepState s) := by
  unfold stepState
  cases hp : s.drawPending with
  | true => simpa using step_inFlight hp
  | false =>
    cases hc : s.commands with
    | nil => simpa using step_idle hp hc
    | cons cw rest => simpa using step_command hp hc

/-- One more step of a run is a step and the run from there. -/
theorem run_succ (n : Nat) (s : State) :
    Sys2Proof.core.run (n + 1) s = Sys2Proof.core.run n (stepState s) := by
  have h : Sys2Proof.core.step s = .next (stepState s) := step_eq s
  simp only [Host.Core.run, h]

/-- A run of the machine is its step repeated. -/
theorem run_eq (n : Nat) (s : State) : Sys2Proof.core.run n s = .next (stepState^[n] s) := by
  induction n generalizing s with
  | zero => rfl
  | succ n ih => rw [run_succ, ih, Function.iterate_succ_apply]

end Sys2Proof.Machine
end

