-- ==== Sys2Proof/Laws/Host.lean ====
section
/-! SUPPORT. What waiting for a command in flight and issuing a command can do, said once (20_memory.md R58, 30_encoding.md
R70). -/

namespace Sys2Proof.Machine

/-- An idle instance is waited for no longer. -/
theorem awaitIdle_of_idle {s : State} (h : s.drawPending = false) : awaitIdle s = some s := by
  simp [awaitIdle, h]

/-- A `SEEDE` in flight is waited for through its next step. -/
theorem awaitIdle_of_inFlight {s : State} (h : s.drawPending = true) :
    awaitIdle s = if (stepState s).drawPending then none else some (stepState s) := by
  simp [awaitIdle, h, step_eq, nextOf]

/-- Where the wait ends, no command is in flight, and the state is the one waited on or the one a step later. -/
theorem awaitIdle_cases {s t : State} (h : awaitIdle s = some t) :
    t.drawPending = false ∧ (s.drawPending = false ∧ t = s ∨ s.drawPending = true ∧ t = stepState s) := by
  cases hp : s.drawPending with
  | false => rw [awaitIdle_of_idle hp] at h; cases h; exact ⟨hp, .inl ⟨rfl, rfl⟩⟩
  | true =>
    rw [awaitIdle_of_inFlight hp] at h
    cases hq : (stepState s).drawPending <;> simp [hq] at h
    subst h; exact ⟨hq, .inr ⟨rfl, rfl⟩⟩

/-- Issuing to an idle instance is one step on the presented word. -/
theorem issue_of_idle {s : State} (i : Instr) (h : s.drawPending = false) :
    issue i s = some (wordState (encode i) (accept s.commands (present (encode i) s))) := by
  have hs := step_command (s := present (encode i) s) h rfl
  simp only [issue, awaitIdle_of_idle h, hs, nextOf]

/-- Issuing after a wait is issuing to the state waited for. -/
theorem issue_of_awaitIdle {s t : State} (i : Instr) (h : awaitIdle s = some t) : issue i s = issue i t := by
  simp only [issue, h, awaitIdle_of_idle (awaitIdle_cases h).1]

/-- While a `SEEDE` waits nothing can be issued. -/
theorem issue_of_waiting {s : State} (i : Instr) (h : awaitIdle s = none) : issue i s = none := by
  simp only [issue, h]

end Sys2Proof.Machine
end

