-- ==== Sys2Proof/Laws/Linear.lean ====
section
/-! SUPPORT. Functions on pairs that are linear over XOR (41_output.md R126): they are determined by the 128 one-bit
pairs. -/

namespace Sys2Proof

/-- XOR of two pairs, word by word. -/
def pairXor (p q : Pair) : Pair := (p.1 ^^^ q.1, p.2 ^^^ q.2)

/-- Linear over XOR, word by word (R126). -/
abbrev PairLinear (g : Pair → Pair) : Prop := ∀ p q, g (pairXor p q) = pairXor (g p) (g q)

theorem pairXor_self (p : Pair) : pairXor p p = (0, 0) := by simp [pairXor]

theorem pairXor_zero (p : Pair) : pairXor p (0, 0) = p := by simp [pairXor]

/-- A linear function keeps the zero pair. -/
theorem PairLinear.map_zero {g : Pair → Pair} (hg : PairLinear g) : g (0, 0) = (0, 0) := by
  have h := hg (0, 0) (0, 0)
  rwa [pairXor_self, pairXor_self] at h

theorem PairLinear.comp {f g : Pair → Pair} (hf : PairLinear f) (hg : PairLinear g) :
    PairLinear fun p => f (g p) := fun p q => by simp only [hg p q, hf (g p) (g q)]

theorem PairLinear.iterate {g : Pair → Pair} (hg : PairLinear g) (n : Nat) : PairLinear g^[n] := by
  induction n with
  | zero => exact fun _ _ => rfl
  | succ n ih => exact fun p q => by simp only [Function.iterate_succ_apply, hg p q, ih (g p) (g q)]

/-- Clearing the top bit of a word below `2^(n+1)` leaves a word below `2^n`. -/
theorem clear_top_lt {x : Word} {n : Nat} (hx : x.toNat < 2 ^ (n + 1)) (hb : x.getLsbD n = true) :
    (x ^^^ BitVec.twoPow 64 n).toNat < 2 ^ n := by
  have hn : n < 64 := BitVec.lt_of_getLsbD hb
  refine Nat.lt_pow_two_of_testBit _ fun i hi => ?_
  rw [BitVec.testBit_toNat, BitVec.getLsbD_xor, BitVec.getLsbD_twoPow]
  rcases Nat.eq_or_lt_of_le hi with rfl | hlt
  · simp [hb, hn]
  · have h0 : x.getLsbD i = false := by
      rw [← BitVec.testBit_toNat]
      exact Nat.testBit_lt_two_pow (Nat.lt_of_lt_of_le hx (Nat.pow_le_pow_right (by decide) hlt))
    have h1 : n ≠ i := by omega
    simp [h0, h1]

/-- A property of words that holds of 0 and survives XOR with each one-bit word holds of every word. -/
theorem word_bit_induction {P : Word → Prop} (h0 : P 0)
    (hbit : ∀ x n, n < 64 → P x → P (x ^^^ BitVec.twoPow 64 n)) (x : Word) : P x := by
  have key : ∀ n, n ≤ 64 → ∀ x : Word, x.toNat < 2 ^ n → P x := by
    intro n
    induction n with
    | zero =>
      intro _ x hx
      have : x = 0 := BitVec.eq_of_toNat_eq (by simpa using hx)
      exact this ▸ h0
    | succ n ih =>
      intro hn x hx
      cases hb : x.getLsbD n with
      | true =>
        have := hbit _ n (by omega) (ih (by omega) _ (clear_top_lt hx hb))
        rwa [BitVec.xor_assoc, BitVec.xor_self, BitVec.xor_zero] at this
      | false =>
        refine ih (by omega) x (Nat.lt_pow_two_of_testBit _ fun i hi => ?_)
        rcases Nat.eq_or_lt_of_le hi with rfl | hlt
        · rw [BitVec.testBit_toNat, hb]
        · exact Nat.testBit_lt_two_pow (Nat.lt_of_lt_of_le hx (Nat.pow_le_pow_right (by decide) hlt))
  exact key 64 (Nat.le_refl _) x x.isLt

/-- Two linear functions that agree on the 128 one-bit pairs are equal. -/
theorem pair_linear_ext {f g : Pair → Pair} (hf : PairLinear f) (hg : PairLinear g)
    (h0 : ∀ n, n < 64 → f (BitVec.twoPow 64 n, 0) = g (BitVec.twoPow 64 n, 0))
    (h1 : ∀ n, n < 64 → f (0, BitVec.twoPow 64 n) = g (0, BitVec.twoPow 64 n)) (p : Pair) : f p = g p := by
  have lo : ∀ x : Word, f (x, 0) = g (x, 0) := by
    refine word_bit_induction (by rw [hf.map_zero, hg.map_zero]) fun x n hn ih => ?_
    have e : ((x ^^^ BitVec.twoPow 64 n, 0) : Pair) = pairXor (x, 0) (BitVec.twoPow 64 n, 0) := by simp [pairXor]
    rw [e, hf, hg, ih, h0 n hn]
  have hi : ∀ y : Word, f (0, y) = g (0, y) := by
    refine word_bit_induction (by rw [hf.map_zero, hg.map_zero]) fun y n hn ih => ?_
    have e : ((0, y ^^^ BitVec.twoPow 64 n) : Pair) = pairXor (0, y) (0, BitVec.twoPow 64 n) := by simp [pairXor]
    rw [e, hf, hg, ih, h1 n hn]
  have e : p = pairXor (p.1, 0) (0, p.2) := by simp [pairXor]
  rw [e, hf, hg, lo, hi]

end Sys2Proof
end

