-- ==== Sys2Proof/Laws/PerInstr.lean ====
section
/-! SUPPORT. The family `OpcodeRange`: the word of every command carries an assigned opcode, the one the opcode map gives it
(30_encoding.md R76, R78), and no command's opcode is reserved. -/

namespace Sys2Proof.Laws.OpcodeRange

/-- The opcode of a command lies between `0x1` and `0x8`, and is the top of its match value in the opcode table. -/
def Statement (i : Instr) : Prop :=
  0x1 ≤ opcodeOf i ∧ opcodeOf i ≤ 0x8 ∧
    ∃ row ∈ opcodeTable, row.mnemonic = i.mnemonic ∧ opField row.matchValue = opcodeOf i

theorem seed (a b : Word) : Statement (.seed a b) := by
  have h : Statement (.seed 0 0) := by unfold Statement; decide
  exact h

theorem seedd : Statement .seedd := by unfold Statement; decide

theorem seede : Statement .seede := by unfold Statement; decide

theorem next64 : Statement .next64 := by unfold Statement; decide

theorem next32 : Statement .next32 := by unfold Statement; decide

theorem jump : Statement .jump := by unfold Statement; decide

theorem rds0 : Statement .rds0 := by unfold Statement; decide

theorem rds1 : Statement .rds1 := by unfold Statement; decide

end Sys2Proof.Laws.OpcodeRange
end

