-- ==== Sys2Proof/Laws/Transition.lean ====
section
/-! SUPPORT. The jump scan, one iteration and one constant at a time, so that no proof unfolds the whole loop. -/

namespace Sys2Proof.Machine

/-- The bit is set: accumulate, then advance (42_jump.md R141). -/
theorem jumpIter_of_set {c : Word} {k : Nat} (h : c.getLsbD k = true) (r : JumpRun) :
    jumpIter c r k =
      ⟨r.a0 ^^^ r.q0, r.a1 ^^^ r.q1, (xoroStep (r.q0, r.q1)).1, (xoroStep (r.q0, r.q1)).2⟩ := by
  simp [jumpIter, h]

/-- The bit is clear: only advance (R141). -/
theorem jumpIter_of_clear {c : Word} {k : Nat} (h : c.getLsbD k = false) (r : JumpRun) :
    jumpIter c r k = ⟨r.a0, r.a1, (xoroStep (r.q0, r.q1)).1, (xoroStep (r.q0, r.q1)).2⟩ := by
  simp [jumpIter, h]

/-- Every iteration advances the pair once, whatever the bit is (R141 "always"). -/
theorem jumpIter_pair (c : Word) (r : JumpRun) (k : Nat) :
    ((jumpIter c r k).q0, (jumpIter c r k).q1) = xoroStep (r.q0, r.q1) := rfl

/-- `JUMP0` is scanned first, `JUMP1` from where that scan ends, and the result is the accumulators (R141). -/
theorem xoroJump_eq (p : Pair) :
    xoroJump p =
      ((jumpScan (jumpScan (jumpStart p) jumpConst0) jumpConst1).a0,
       (jumpScan (jumpScan (jumpStart p) jumpConst0) jumpConst1).a1) := by
  simp only [xoroJump, List.foldl_cons, List.foldl_nil]

end Sys2Proof.Machine
end

