-- ==== Sys2Proof/Tests/Slice0.lean ====
section
/-! SUPPORT. Tests. Expected values are the spec's own: the tables and programs of 95_test_vectors.md. The theorems named
`witness_...` show that the hypotheses of a statement can be met, clause by clause. -/

open Sys2Proof Sys2Proof.Machine

namespace Sys2Proof.Tests

/-! ## Small states -/

/-- An unseeded instance with a provider that has answered nothing and a host that presents nothing. -/
def bare : State := ⟨0, 0, false, false, none, true, [], [], 0⟩

/-- A seeded instance. -/
def withPair (a b : Word) : State := { bare with s0 := a, s1 := b, valid := true }

/-- The host presents commands. -/
def presenting (is : List Instr) (s : State) : State := { s with commands := is.map encode }

/-- The provider gives answers. -/
def answering (as : List DrawAnswer) (s : State) : State := { s with answers := as }

/-- What a result leaves of the core and on the port: the pair, `VALID`, the response. -/
def seen (r : Result) : Option (Pair × Bool × Option Response) :=
  (nextOf r).map fun s => (s.pair, s.valid, s.rsp)

/-! ## Encoding (95_test_vectors.md T7; 30_encoding.md R71, R76) -/

theorem test_decode_seed :
    decode 0x1ffffffffffffffff0000000000000036 = .ok (.seed 0xffffffffffffffff 54) := by decide

theorem test_decode_seedd : decode 0x200000000000000000000000000000000 = .ok .seedd := by decide

theorem test_decode_seede : decode 0x300000000000000000000000000000000 = .ok .seede := by decide

theorem test_decode_next64 : decode 0x4ffffffffffffffff123456789abcdef0 = .ok .next64 := by decide

theorem test_decode_next32 : decode 0x500000000000000000000000000000000 = .ok .next32 := by decide

theorem test_decode_jump : decode 0x600000000000000000000000000000000 = .ok .jump := by decide

theorem test_decode_rds0 : decode 0x700000000000000000000000000000000 = .ok .rds0 := by decide

theorem test_decode_rds1 : decode 0x800000000000000000000000000000000 = .ok .rds1 := by decide

theorem test_decode_all_zeros : decode 0 = .error (.reserved 0x0) := by decide

theorem test_decode_all_ones :
    decode 0xfffffffffffffffffffffffffffffffff = .error (.reserved 0xf) := by decide

/-- `SEED 0xaeecf86f7878dd75, 0x1cd153642e72622` assembles to the word of R81. -/
theorem test_encode_seed :
    encode (.seed 0xaeecf86f7878dd75 0x1cd153642e72622) = 0x1aeecf86f7878dd7501cd153642e72622 := by decide

theorem test_decode_table_word : decodeTableWord 136 0x700000000000000000000000000000000 = some .rds0 := by decide

/-- Response words of T7. -/
theorem test_response_words :
    responseWord ⟨.ok, 53⟩ = 0x00000000000000035 ∧ responseWord ⟨.errIllegal, 0⟩ = 0x30000000000000000 := by decide

/-! ## Well-formedness smoke: an ill-formed line for each check (R81) -/

theorem test_arity_refused : (SourceLine.mk .seed [1]).arityOk = false := by decide

theorem test_arity_refused_extra : (SourceLine.mk .next64 [1, 2]).wellFormed = false := by decide

theorem test_range_refused : (SourceLine.mk .seed [18446744073709551616, 0]).rangeOk = false := by decide

theorem test_wellFormed_accepted : (SourceLine.mk .seed [18446744073709551615, 54]).wellFormed = true := by decide

/-! ## Assembler text (R81 examples, R82) -/

set_option maxRecDepth 4000 in
theorem test_assemble_seed :
    assembleLine ['S', 'E', 'E', 'D', ' ', '0', 'x', 'f', 'F', ',', ' ', '5', '4', ' ', ';', ' ', 'c'] =
      .ok [.seed 0xff 54] := by decide

theorem test_assemble_rdstate :
    assembleLine ['R', 'D', 'S', 'T', 'A', 'T', 'E'] = .ok [.rds0, .rds1] := by decide

theorem test_assemble_unknown : assembleLine ['H', 'A', 'L', 'T'] = .error .unknownMnemonic := by decide

theorem test_assemble_count : assembleLine ['J', 'U', 'M', 'P', ' ', '1'] = .error .operandCount := by decide

theorem test_assemble_literal : assembleLine ['S', 'E', 'E', 'D', ' ', '0', 'x', ',', '1'] = .error .badLiteral := by
  decide

/-! ## Functions (T1, T2, T4, T5) -/

theorem test_out_wraps : xoroOut (0xffffffffffffffff, 0x36) = 0x35 := by decide

/-- `t` bit 49 is the last that survives the shift, bit 50 the first lost (T2). -/
theorem test_step_shift_edge :
    xoroStep (0, 0x0002000000000000) = (0x8002000000000000, 0x0000000000200000) ∧
    xoroStep (0, 0x0004000000000000) = (0x0004000000000000, 0x0000000000400000) := by decide

/-- Rotations that wrap to bit 0 (T2). -/
theorem test_step_rotations :
    xoroStep (0x200, 0) = (0x0000000000800201, 0x0000200000000000) ∧
    xoroStep (0, 0x10000000) = (0x0000040010000000, 0x0000000000000001) := by decide

/-- Iterations 0 and 2 of T5: a set and a clear bit of `JUMP0`. -/
theorem test_jump_iterations :
    jumpIter jumpConst0 (jumpStart (1, 0)) 0 = ⟨1, 0, 0x0080000000004001, 0x0000001000000000⟩ ∧
    jumpIter jumpConst0 ⟨0x0080000000004000, 0x0000001000000000, 0x0004401010000021, 0x0004001008000100⟩ 2 =
      ⟨0x0080000000004000, 0x0000001000000000, 0x0080442010404121, 0x8000121000040001⟩ := by decide

/-! ## Commands: one step each -/

/-- T6, first row. -/
theorem test_seed_from_reset :
    seen (exec (.seed 0xaeecf86f7878dd75 0x1cd153642e72622) State.reset) =
      some ((0xaeecf86f7878dd75, 0x01cd153642e72622), true, some ⟨.ok, 0⟩) := by decide

/-- T6: `SEED 0, 0` is accepted, also on a seeded instance. -/
theorem test_seed_zero : seen (exec (.seed 0 0) (withPair 1 2)) = some ((0, 0), true, some ⟨.ok, 0⟩) := by decide

/-- T6: `SEEDD` leaves the default pair, no discard. -/
theorem test_seedd : seen (exec .seedd State.reset) = some (Config.defaultSeed, true, some ⟨.ok, 0⟩) := rfl

/-- T6: answers `Ok(0,0)`, `Ok(0,0)`, `Ok(5,7)`. -/
theorem test_seede_redraws :
    seen (exec .seede (answering [.ok 0 0, .ok 0 0, .ok 5 7] bare)) =
      some ((0x0280000000008002, 0x0000002000000000), true, some ⟨.ok, 0⟩) := by decide

/-- T6: answers `Ok(0,0)`, `Err` on a seeded instance: unchanged. -/
theorem test_seede_fails :
    seen (exec .seede (answering [.ok 0 0, .err] (withPair 1 2))) =
      some ((1, 2), true, some ⟨.errEntropy, 0⟩) := by decide

/-- T3b row 0. -/
theorem test_next64 :
    seen (exec .next64 (withPair 1 2)) =
      some ((0x008000000000c003, 0x0000003000000000), true, some ⟨.ok, 3⟩) := by decide

/-- R123 corner case (iii): a zero output from a non-zero state. -/
theorem test_next64_wraps :
    seen (exec .next64 (withPair 0xffffffffffffffff 1)) =
      some ((0xffffffffffff8001, 0xffffffefffffffff), true, some ⟨.ok, 0⟩) := by decide

/-- V1 row 0. -/
theorem test_next32 :
    seen (exec .next32 (withPair 0xaeecf86f7878dd75 0x01cd153642e72622)) =
      some ((0x6ea0d582f3f60739, 0xa9ffb57af21ed593), true, some ⟨.ok, 3143631767⟩) := by decide

/-- R125 corner case (iii): the low half is 0 while the output is not. -/
theorem test_next32_low_half :
    seen (exec .next32 (withPair 0x8000000000000000 0)) =
      some ((0x8040000000000000, 0x0000000800000000), true, some ⟨.ok, 0⟩) := by decide

set_option maxRecDepth 20000 in
/-- V2: the jump of the reference seed. -/
theorem test_jump :
    seen (exec .jump (withPair 0xaeecf86f7878dd75 0x01cd153642e72622)) =
      some ((0x28a084400527ecdf, 0x52d16c90cf54e401), true, some ⟨.ok, 0⟩) := by decide +kernel

/-- P3 row 2. -/
theorem test_jump_unseeded : seen (exec .jump bare) = some ((0, 0), false, some ⟨.errUnseeded, 0⟩) := by decide

/-- P3 rows 7 and 1. -/
theorem test_rds0 :
    seen (exec .rds0 (withPair 0xfffffffffff24036 0xfffffc9fffffffff)) =
      some ((0xfffffffffff24036, 0xfffffc9fffffffff), true, some ⟨.ok, 0xfffffffffff24036⟩) := by decide

theorem test_rds0_unseeded : seen (exec .rds0 bare) = some ((0, 0), false, some ⟨.errUnseeded, 0⟩) := by decide

/-- P3 row 8. -/
theorem test_rds1 :
    seen (exec .rds1 (withPair 0xfffffffffff24036 0xfffffc9fffffffff)) =
      some ((0xfffffffffff24036, 0xfffffc9fffffffff), true, some ⟨.ok, 0xfffffc9fffffffff⟩) := by decide

theorem test_rds1_unseeded : seen (exec .rds1 bare) = some ((0, 0), false, some ⟨.errUnseeded, 0⟩) := by decide

/-! ## Steps -/

/-- P3 row 0: the first command after reset. -/
theorem test_step_from_reset :
    (nextOf (step (State.reset.withFetchWord 136 0x400000000000000000000000000000000))).map (fun s => (s.valid, s.rsp)) =
      some (false, some ⟨.errUnseeded, 0⟩) := by decide

/-- T8: a reserved opcode wins over an unseeded instance. -/
theorem test_step_illegal :
    seen (step (present 0xf00000000000000000000000000000000 bare)) =
      some ((0, 0), false, some ⟨.errIllegal, 0⟩) := by decide

/-- R107: a provider that has not answered: no response, and the next step repeats the state. -/
theorem test_step_waits :
    (nextOf (step (presenting [.seede, .next64] bare))).map (fun s => (s.drawPending, s.rsp, step s)) =
      (nextOf (step (presenting [.seede, .next64] bare))).map (fun s => (true, none, .next s)) := rfl

/-- R200: reset ends a waiting `SEEDE` and clears `VALID`. -/
theorem test_reset_input :
    (fun s : State => (s.valid, s.drawPending, s.rsp))
      (resetInput { withPair 1 2 with drawPending := true }) = (false, false, none) := by decide

/-- T10: filling 11 bytes. -/
theorem test_fill :
    (fillBytes 11 (withPair 0xaeecf86f7878dd75 0x01cd153642e72622)).map Prod.fst =
      some [0x97, 0x03, 0x60, 0xbb, 0xa5, 0x0d, 0xba, 0xb0, 0xcc, 0xdc, 0x14] := by decide

/-- A fill asked for while a `SEEDE` is in flight and just answered: its bytes are those of the first `NEXT64` after it
(95_test_vectors.md P6a, 20_memory.md R56, R58). -/
theorem test_fill_after_seede :
    (fillBytes 8 (answering [.ok 5 7] { bare with drawPending := true })).map Prod.fst =
      some [0x02, 0x80, 0x00, 0x00, 0x20, 0x00, 0x80, 0x02] := by decide

/-- R23: a host that stops after the first response. -/
theorem test_host_strategy :
    (runHost (fun rs => if rs.isEmpty then some .rds0 else none) 3 [] (withPair 1 2)).1 = [⟨.ok, 1⟩] := by decide

/-- A program that reads before it seeds is to blame (R172, R203). -/
theorem test_program_fault : (nextOf (exec .rds0 bare)).map programFault = some true := by decide

/-! ## Witnesses -/

theorem witness_DecodeIsOpcodeMap :
    (∀ k : BitVec 4, opField (packCommand k 5 6) = k) ∧
    ((0x0 : BitVec 4) = 0x0 ∨ 0x9 ≤ (0x0 : BitVec 4)) ∧
    ((0x9 : BitVec 4) = 0x0 ∨ 0x9 ≤ (0x9 : BitVec 4)) ∧
    ((0xf : BitVec 4) = 0x0 ∨ 0x9 ≤ (0xf : BitVec 4)) ∧ ¬((0x8 : BitVec 4) = 0x0 ∨ 0x9 ≤ (0x8 : BitVec 4)) := by decide

theorem witness_UnusedOperandFieldsIgnored :
    opField (packCommand 0x4 0 0) = opField (packCommand 0x4 7 9) ∧ opField (packCommand 0x4 0 0) ≠ 0x1 ∧
    opField (encode .rds1) ≠ 0x1 := by decide

theorem witness_OpcodeTableSelectsCommand :
    ∃ row ∈ opcodeTable, (packCommand 0x8 1 2) &&& row.mask = row.matchValue ∧ row.mnemonic = .rds1 := by decide

theorem witness_StepRunsDecodedCommand :
    (presenting [.rds0] bare).drawPending = false ∧ (presenting [.rds0] bare).commands = encode .rds0 :: [] ∧
    decode (encode .rds0) = .ok .rds0 := by decide

theorem witness_StepContinuesSeedeInFlight : ({ bare with drawPending := true } : State).drawPending = true := rfl

theorem witness_IdleCoreHoldsState : bare.drawPending = false ∧ bare.commands = [] := by decide

theorem witness_ReservedOpcodeRaisesIllegal :
    (present (packCommand 0xf 0 0) bare).drawPending = false ∧
    (present (packCommand 0xf 0 0) bare).commands = packCommand 0xf 0 0 :: [] ∧
    (opField (packCommand 0xf 0 0) = 0x0 ∨ 0x9 ≤ opField (packCommand 0xf 0 0)) ∧
    (opField (packCommand 0x9 0 0) = 0x0 ∨ 0x9 ≤ opField (packCommand 0x9 0 0)) ∧
    (opField (packCommand 0x0 0 0) = 0x0 ∨ 0x9 ≤ opField (packCommand 0x0 0 0)) := by decide

theorem witness_OneResponsePerCommand :
    ∃ t u, step (presenting [.rds0] bare) = .next t ∧ t.rsp = some ⟨.errUnseeded, 0⟩ ∧
      step (presenting [.seede] bare) = .next u ∧ u.rsp = none := ⟨_, _, rfl, rfl, rfl, rfl⟩

theorem witness_SeedCommand : opField (packCommand 0x1 3 4) = 0x1 := by decide

theorem witness_ZeroSeedGivesZeroStream :
    (∀ i ∈ [Instr.next64, .jump, .rds1], i.isSeeding = false) ∧ (withPair 0 0).valid = true ∧
    (withPair 0 0).degenerate ∧ (presenting [.next64, .jump, .rds1] (withPair 0 0)).drawPending = false ∧
    (presenting [.next64, .jump, .rds1] (withPair 0 0)).commands = [Instr.next64, .jump, .rds1].map encode ++ [] := by
  decide

theorem witness_ReseedForgetsPriorState :
    ((∃ a b, Instr.seed 1 2 = .seed a b) ∨ Instr.seed 1 2 = .seedd) ∧
    ((∃ a b, Instr.seedd = .seed a b) ∨ Instr.seedd = .seedd) ∧
    (presenting [.seed 1 2, .next64] (withPair 8 9)).drawPending = false ∧
    (presenting [.seed 1 2, .next64] (withPair 8 9)).commands = encode (.seed 1 2) :: [encode .next64] :=
  ⟨.inl ⟨1, 2, rfl⟩, .inr rfl, rfl, rfl⟩

theorem witness_SeeddCommand : opField (packCommand 0x2 0 0) = 0x2 := by decide

theorem witness_SeedeCommand :
    opField (packCommand 0x3 0 0) = 0x3 ∧
    (answering [.ok 0 0, .ok 0 5] bare).hasEntropy = true ∧
    (answering [.ok 0 0, .ok 0 5] bare).answers = List.replicate 1 (.ok 0 0) ++ .ok 0 5 :: [] ∧
    ((0, 5) : Pair) ≠ (0, 0) ∧
    (answering [.err] bare).answers = List.replicate 0 (.ok 0 0) ++ .err :: [] ∧
    ({ bare with hasEntropy := false } : State).hasEntropy = false := by decide

theorem witness_FailedSeedeKeepsState :
    ∃ t r, exec .seede (answering [.ok 0 0, .err] (withPair 1 2)) = .next t ∧ t.rsp = some r ∧ r.status = .errEntropy :=
  ⟨_, _, rfl, rfl, rfl⟩

theorem witness_SeedeNeverLeavesZero :
    ∃ t, exec .seede (answering [.ok 0 1] bare) = .next t ∧ t.rsp = some ⟨.ok, 0⟩ := ⟨_, rfl, rfl⟩

theorem witness_UnansweredSeedeHangs :
    (answering [.ok 0 0] bare).hasEntropy = true ∧ ¬ EntropyAnswers (answering [.ok 0 0] bare).answers := by decide

theorem witness_SeedeCompletesIffAnswered :
    EntropyAnswers [.ok 0 0, .ok 0 1] ∧ EntropyAnswers [.ok 0 0, .err] ∧ ¬ EntropyAnswers [.ok 0 0] ∧
    ¬ EntropyAnswers [] := by decide

theorem witness_LateAnswersResumeSeede :
    (answering [] bare).hasEntropy = true ∧ ¬ EntropyAnswers (answering [] bare).answers := by decide

/-- The two sides of the carry, at the boundary. -/
theorem witness_OutWrapsModulo :
    (0xffffffffffffffff : Word).toNat + (0 : Word).toNat < 2 ^ 64 ∧
    2 ^ 64 ≤ (0xffffffffffffffff : Word).toNat + (1 : Word).toNat ∧ (withPair 1 2).valid = true := by decide

theorem witness_ZeroStateIsFixedPoint : xoroStep^[2] (0, 0) = (0, 0) := by decide

theorem witness_ResetState : Instr.next64.needsSeeded = true ∧ Instr.rds1.needsSeeded = true := by decide

theorem witness_StepBitByBit : (0 < 64 ∧ ¬ 14 ≤ 0) ∧ (13 < 64 ∧ ¬ 14 ≤ 13) ∧ (14 < 64 ∧ 14 ≤ 14) ∧ 63 < 64 := by decide

theorem witness_StepIsLinearBijection : ((0, 1) : Pair) ≠ (0, 0) := by decide

theorem witness_ArithmeticLaws : (55 = 55 ∨ 55 = 36) ∧ (36 = 55 ∨ 36 = 36) ∧ 0 < 64 ∧ 63 < 64 := by decide

theorem witness_Next64Command :
    opField (packCommand 0x4 0 0) = 0x4 ∧ bare.valid = false ∧ (withPair 1 2).valid = true := by decide

theorem witness_Next32Command :
    opField (packCommand 0x5 0 0) = 0x5 ∧ bare.valid = false ∧ (withPair 1 2).valid = true := by decide

theorem witness_JumpCommand :
    opField (packCommand 0x6 0 0) = 0x6 ∧ bare.valid = false ∧ (withPair 1 2).valid = true := by decide

theorem witness_Rds0Command :
    opField (packCommand 0x7 0 0) = 0x7 ∧ bare.valid = false ∧ (withPair 1 2).valid = true := by decide

theorem witness_Rds1Command :
    opField (packCommand 0x8 0 0) = 0x8 ∧ bare.valid = false ∧ (withPair 1 2).valid = true := by decide

theorem witness_OutputStream :
    (∀ i ∈ [Instr.next64, .next32], i = .next64 ∨ i = .next32) ∧
    (presenting [.next64, .next32, .jump] (withPair 1 2)).valid = true ∧
    (presenting [.next64, .next32, .jump] (withPair 1 2)).drawPending = false ∧
    (presenting [.next64, .next32, .jump] (withPair 1 2)).commands =
      [Instr.next64, .next32].map encode ++ [encode .jump] ∧
    [Instr.next64, .next32][0]? = some .next64 ∧ [Instr.next64, .next32][1]? = some .next32 := by decide

theorem witness_TruncationLaw :
    (presenting [.next64, .next64] (withPair 1 2)).pair = (presenting [.next32, .next32] (withPair 1 2)).pair ∧
    (withPair 1 2).valid = true ∧ (withPair 1 2).drawPending = false ∧
    (presenting [.next64, .next64] (withPair 1 2)).commands = List.replicate 2 (encode .next64) ++ [] ∧
    (presenting [.next32, .next32] (withPair 1 2)).commands = List.replicate 2 (encode .next32) ++ [] ∧ 1 < 2 := by
  decide

theorem witness_JumpIsTwoPow64Transitions : (withPair 1 2).valid = true := rfl

theorem witness_UnseededCommandsRefused :
    Instr.next64.needsSeeded = true ∧ bare.valid = false ∧
    ∃ t r, exec .rds1 bare = .next t ∧ t.rsp = some r ∧ r.status = .errUnseeded := ⟨rfl, rfl, _, _, rfl, rfl, rfl⟩

theorem witness_WhichCommandRaisesWhat :
    ∃ t r, exec .jump bare = .next t ∧ t.rsp = some r ∧ r.status = .errUnseeded ∧
      ∃ u q, exec .rds0 (withPair 1 2) = .next u ∧ u.rsp = some q ∧ Instr.rds0 ≠ .seede ∧ (withPair 1 2).valid = true :=
  ⟨_, _, rfl, rfl, rfl, _, _, rfl, rfl, by decide, rfl⟩

theorem witness_ExceptionsArePrecise :
    (presenting [.rds0] bare).commands ≠ [] ∧
    ∃ t r, step (presenting [.rds0] bare) = .next t ∧ t.rsp = some r ∧ r.status ≠ .ok :=
  ⟨by decide, _, _, rfl, rfl, by decide⟩

theorem witness_OrderOfChecks :
    decode (packCommand 0xf 0 0) = .error (.reserved 0xf) ∧
    (∃ t r, exec .seede (answering [.err] bare) = .next t ∧ t.rsp = some r) ∧
    ∃ t r, Instr.next32.needsSeeded = true ∧ exec .next32 bare = .next t ∧ t.rsp = some r :=
  ⟨by decide, ⟨_, _, rfl, rfl⟩, _, _, rfl, rfl, rfl⟩

theorem witness_ValidFlagRule :
    Instr.rds0.needsSeeded = true ∧
    (∃ t, step (presenting [.rds0] (withPair 1 2)) = .next t ∧ (presenting [.rds0] (withPair 1 2)).valid = true) ∧
    ∃ t, exec (.seed 1 2) bare = .next t ∧ bare.valid = false ∧ t.valid = true ∧ (Instr.seed 1 2).isSeeding = true ∧
      t.rsp = some ⟨.ok, 0⟩ := ⟨rfl, ⟨_, rfl, rfl⟩, _, rfl, rfl, rfl, rfl, rfl⟩

theorem witness_CommandsLeaveOutsideAlone :
    ∃ t u, exec .next64 (withPair 1 2) = .next t ∧ Instr.next64 ≠ .seede ∧
      exec .seede (answering [.ok 1 2] bare) = .next u := ⟨_, _, rfl, by decide, rfl⟩

theorem witness_ResponsesAreDetermined :
    (presenting [.rds0] (withPair 1 2)).SameCore { presenting [.rds0] (withPair 1 2) with index := 7, rsp := some ⟨.ok, 9⟩ } ∧
    (presenting [.rds0] (withPair 1 2)).SameWorld { presenting [.rds0] (withPair 1 2) with index := 7, rsp := some ⟨.ok, 9⟩ } ∧
    (presenting [.rds0] (withPair 1 2)).commands ≠ [] := ⟨⟨rfl, rfl, rfl, rfl⟩, ⟨rfl, rfl, rfl⟩, by decide⟩

theorem witness_EqualStatesEqualResponses :
    let s := presenting [.next64, .jump] (withPair 1 2)
    let t := answering [.err] { presenting [.next64, .jump] (withPair 1 2) with hasEntropy := false }
    s.pair = t.pair ∧ s.valid = true ∧ t.valid = true ∧ s.drawPending = false ∧ t.drawPending = false ∧
    s.commands = t.commands ∧ s.commands ≠ [] ∧ ∀ cw ∈ s.commands, decode cw ≠ .ok .seede :=
  ⟨rfl, rfl, rfl, rfl, rfl, rfl, List.cons_ne_nil _ _, by
    intro cw h
    simp only [presenting, withPair, bare, List.map_cons, List.map_nil, List.mem_cons, List.not_mem_nil, or_false] at h
    rcases h with rfl | rfl <;> decide⟩

theorem witness_ResetInputRule :
    (presenting [.rds0] (withPair 1 2)).commands = encode .rds0 :: [] := by decide

/-- A state that has the invariant and takes a step. -/
theorem witness_EveryStepKeepsInvariant :
    (presenting [.seede] bare).Inv ∧ ∃ t, step (presenting [.seede] bare) = .next t ∧ t.drawPending = true := by
  refine ⟨⟨fun h => ?_, fun r h => ?_⟩, _, rfl, rfl⟩ <;> cases h

theorem witness_OnlyZeroSeedDegenerates :
    ((withPair 1 2).valid = true → ¬ (withPair 1 2).degenerate) ∧
    ∃ t, step (presenting [.next64] (withPair 1 2)) = .next t ∧ t.valid = true ∧
      (presenting [.next64] (withPair 1 2)).commands = [encode .next64] ∧
      decode (encode .next64) ≠ .ok (.seed 0 0) := ⟨by decide, _, rfl, rfl, by decide, by decide⟩

theorem witness_BufferFillRule :
    (withPair 1 2).valid = true ∧ (withPair 1 2).drawPending = false ∧ 2 < 8 ∧ 8 * 1 + 2 < 11 := by decide

/-- A `SEEDE` in flight that ends at the next step, and one that still waits. -/
theorem witness_FillWaitsForSeede :
    0 < 1 ∧ ({ bare with drawPending := true } : State).drawPending = true ∧
    (∃ t, step { bare with drawPending := true } = .next t ∧ t.drawPending = true) ∧
    ∃ t, step (answering [.ok 5 7] { bare with drawPending := true }) = .next t ∧ t.drawPending = false :=
  ⟨by decide, rfl, ⟨_, rfl, rfl⟩, _, rfl, rfl⟩

theorem witness_CloneCopiesState :
    (withPair 1 2).valid = true ∧ (withPair 1 2).drawPending = false ∧ bare.drawPending = false ∧ bare.valid = false := by
  decide

theorem witness_PartitionStartsStreams :
    (withPair 1 2).valid = true ∧ (withPair 1 2).drawPending = false ∧
    (∀ w ∈ [bare, withPair 3 4], w.drawPending = false) := by decide

theorem witness_InstancesAreIndependent :
    ∃ sys1, runSystem [0, 1, 0] [presenting [.next64, .jump] (withPair 1 2), bare] = some sys1 ∧
      [presenting [.next64, .jump] (withPair 1 2), bare][1]? = some bare := ⟨_, rfl, rfl⟩

theorem witness_AssemblerReadsEveryCommand :
    (SourceLine.mk .seed [0, 18446744073709551615]).operands.length = Mnemonic.seed.arity ∧
    ∀ n ∈ (SourceLine.mk .seed [0, 18446744073709551615]).operands, n < 2 ^ 64 := by decide

end Sys2Proof.Tests
end

/-! SUPPORT. The encoder's words decode to their commands (30_encoding.md R71, R76, R77); the default seed is a non-zero
pair (00_scope.md R6). -/

namespace Sys2Proof

@[simp] theorem opField_packCommand (op : BitVec 4) (a b : Word) : opField (packCommand op a b) = op :=
  BitVec.extractLsb'_append_eq_left

@[simp] theorem aField_packCommand (op : BitVec 4) (a b : Word) : aField (packCommand op a b) = a := by
  rw [aField, packCommand, BitVec.extractLsb'_append_eq_of_add_le (by decide)]
  exact BitVec.extractLsb'_append_eq_left

@[simp] theorem bField_packCommand (op : BitVec 4) (a b : Word) : bField (packCommand op a b) = b := by
  rw [bField, packCommand, BitVec.extractLsb'_append_eq_of_add_le (by decide)]
  exact BitVec.extractLsb'_append_eq_right

theorem decode_packCommand (op : BitVec 4) (a b : Word) : decode (packCommand op a b) = decodeFields op a b := by
  rw [decode, opField_packCommand, aField_packCommand, bField_packCommand]

theorem decode_encode (i : Instr) : decode (encode i) = .ok i := by
  cases i with
  | seed a b => exact decode_packCommand 0x1 a b
  | seedd => exact decode_packCommand 0x2 0 0
  | seede => exact decode_packCommand 0x3 0 0
  | next64 => exact decode_packCommand 0x4 0 0
  | next32 => exact decode_packCommand 0x5 0 0
  | jump => exact decode_packCommand 0x6 0 0
  | rds0 => exact decode_packCommand 0x7 0 0
  | rds1 => exact decode_packCommand 0x8 0 0

/-- The default pair is a non-zero pair (00_scope.md R6). -/
theorem defaultSeed_ne_zero : Config.defaultSeed ≠ (0, 0) := by
  intro h
  obtain ⟨hhi, hlo⟩ := Prod.mk.inj h
  have hbits : Config.defaultSeedBits = 0 :=
    calc Config.defaultSeedBits
      _ = Config.defaultSeedBits.extractLsb' 64 64 ++ Config.defaultSeedBits.extractLsb' 0 64 :=
          (BitVec.extractLsb'_append_extractLsb' (len := 64) (w := 64)).symm
      _ = 0 := by rw [hhi, hlo]; rfl
  have hnat : (Config.defaultSeedIndex.val + 1) % 2 ^ 128 = 0 := congrArg BitVec.toNat hbits
  have hlt := Config.defaultSeedIndex.isLt
  omega

end Sys2Proof

/-! SUPPORT. `Step` is linear over XOR with no kernel but `(0, 0)` (41_output.md R126). -/

namespace Sys2Proof

/-- A linear function with no kernel but `(0, 0)` merges no two pairs. -/
theorem PairLinear.injective {g : Pair → Pair} (hg : PairLinear g) (hk : ∀ p, g p = (0, 0) → p = (0, 0)) :
    Function.Injective g := by
  intro p q h
  have hz : pairXor p q = (0, 0) := hk _ (by rw [hg, h, pairXor_self])
  obtain ⟨h0, h1⟩ := Prod.mk.inj hz
  exact Prod.ext (BitVec.xor_eq_zero_iff.mp h0) (BitVec.xor_eq_zero_iff.mp h1)

end Sys2Proof

namespace Sys2Proof.Machine

theorem rotl64_xor (v w : Word) (k : Nat) : rotl64 (v ^^^ w) k = rotl64 v k ^^^ rotl64 w k := by
  unfold rotl64
  ext i hi
  simp only [BitVec.getElem_xor, BitVec.getElem_rotateLeft]
  split <;> rfl

/-- Rotating on by the rest of 64 undoes a rotation (41_output.md R127). -/
theorem rotl64_rotl64 (v : Word) {k : Nat} (h0 : 0 < k) (h1 : k < 64) : rotl64 (rotl64 v k) (64 - k) = v := by
  have hk : (64 - k) % 64 = 64 - k := Nat.mod_eq_of_lt (by omega)
  unfold rotl64
  ext i hi
  simp only [BitVec.getElem_rotateLeft, Nat.mod_eq_of_lt h1, hk]
  split
  · rw [dif_neg (by omega)]
    congr 1
    omega
  · rw [dif_pos (by omega)]
    congr 1
    omega

theorem eq_zero_of_rotl64_eq_zero {v : Word} {k : Nat} (h0 : 0 < k) (h1 : k < 64) (h : rotl64 v k = 0) :
    v = 0 := by
  have hr := rotl64_rotl64 v h0 h1
  rw [h] at hr
  rw [← hr]
  simp [rotl64, BitVec.rotateLeft_def]

/-- The one law of XOR that linearity turns on. -/
theorem xor_xor_xor_comm (a b c d : Word) : (a ^^^ b) ^^^ (c ^^^ d) = (a ^^^ c) ^^^ (b ^^^ d) := by
  ac_rfl

theorem xoroStep_linear : PairLinear xoroStep := by
  intro p q
  have ht : (p.2 ^^^ q.2) ^^^ (p.1 ^^^ q.1) = (p.2 ^^^ p.1) ^^^ (q.2 ^^^ q.1) := xor_xor_xor_comm ..
  refine Prod.ext ?_ ?_
  · simp only [xoroStep, pairXor, ht, shl64, rotl64_xor, BitVec.shiftLeft_xor_distrib]
    rw [xor_xor_xor_comm (rotl64 p.1 rotA), xor_xor_xor_comm (rotl64 p.1 rotA ^^^ _)]
  · simp only [xoroStep, pairXor, ht, rotl64_xor]

theorem xoroStep_zero : xoroStep (0, 0) = (0, 0) := xoroStep_linear.map_zero

/-- A pair of two equal words: `t` is 0, so only the rotation of the first word is left (R120). -/
theorem xoroStep_same (v : Word) : xoroStep (v, v) = (rotl64 v rotA, 0) := by
  simp [xoroStep, shl64, rotl64, BitVec.rotateLeft_def]

/-- No non-zero pair maps to `(0, 0)` (R126). -/
theorem eq_zero_of_xoroStep_eq_zero {p : Pair} (h : xoroStep p = (0, 0)) : p = (0, 0) := by
  obtain ⟨v, w⟩ := p
  have ht : rotl64 (w ^^^ v) rotC = 0 := (Prod.mk.inj h).2
  obtain rfl : w = v := BitVec.xor_eq_zero_iff.mp (eq_zero_of_rotl64_eq_zero (by decide) (by decide) ht)
  rw [xoroStep_same] at h
  rw [eq_zero_of_rotl64_eq_zero (by decide) (by decide) (Prod.mk.inj h).1]

theorem xoroStep_injective : Function.Injective xoroStep :=
  xoroStep_linear.injective fun _ => eq_zero_of_xoroStep_eq_zero

/-! ## The jump scan -/

/-- XOR of two jump runs, word by word. -/
def JumpRun.xor (r q : JumpRun) : JumpRun := ⟨r.a0 ^^^ q.a0, r.a1 ^^^ q.a1, r.q0 ^^^ q.q0, r.q1 ^^^ q.q1⟩

/-- A jump run one transition further: the accumulators and the pair being advanced. -/
def JumpRun.stepped (r : JumpRun) : JumpRun :=
  ⟨(xoroStep (r.a0, r.a1)).1, (xoroStep (r.a0, r.a1)).2, (xoroStep (r.q0, r.q1)).1, (xoroStep (r.q0, r.q1)).2⟩

theorem jumpIter_xor (c : Word) (r q : JumpRun) (k : Nat) :
    (jumpIter c r k).xor (jumpIter c q k) = jumpIter c (r.xor q) k := by
  have hs := xoroStep_linear (r.q0, r.q1) (q.q0, q.q1)
  obtain ⟨h0, h1⟩ := Prod.ext_iff.mp hs
  cases hc : c.getLsbD k with
  | true =>
    simp only [jumpIter_of_set hc, JumpRun.xor, JumpRun.mk.injEq]
    exact ⟨xor_xor_xor_comm .., xor_xor_xor_comm .., h0.symm, h1.symm⟩
  | false =>
    simp only [jumpIter_of_clear hc, JumpRun.xor, JumpRun.mk.injEq]
    exact ⟨trivial, trivial, h0.symm, h1.symm⟩

theorem jumpIter_stepped (c : Word) (r : JumpRun) (k : Nat) :
    jumpIter c r.stepped k = (jumpIter c r k).stepped := by
  obtain ⟨h0, h1⟩ := Prod.ext_iff.mp (xoroStep_linear (r.a0, r.a1) (r.q0, r.q1))
  cases hc : c.getLsbD k with
  | true =>
    simp only [jumpIter_of_set hc, JumpRun.stepped, JumpRun.mk.injEq]
    exact ⟨h0.symm, h1.symm, trivial, trivial⟩
  | false => simp only [jumpIter_of_clear hc, JumpRun.stepped]

theorem jumpScan_xor (r q : JumpRun) (c : Word) : (jumpScan r c).xor (jumpScan q c) = jumpScan (r.xor q) c :=
  (List.foldl_hom₂ (List.range 64) JumpRun.xor _ _ _ r q fun a b i => jumpIter_xor c a b i).symm

theorem jumpScan_stepped (r : JumpRun) (c : Word) : jumpScan r.stepped c = (jumpScan r c).stepped :=
  List.foldl_hom JumpRun.stepped fun a i => jumpIter_stepped c a i

/-- What `Jump` computes, with any two constants in the place of `JUMP0` and `JUMP1` (42_jump.md R141). -/
def scanPair (c0 c1 : Word) (p : Pair) : Pair :=
  ((jumpScan (jumpScan (jumpStart p) c0) c1).a0, (jumpScan (jumpScan (jumpStart p) c0) c1).a1)

theorem xoroJump_eq_scanPair (p : Pair) : xoroJump p = scanPair jumpConst0 jumpConst1 p := xoroJump_eq p

theorem scanPair_linear (c0 c1 : Word) : PairLinear (scanPair c0 c1) := by
  intro p q
  have hstart : jumpStart (pairXor p q) = (jumpStart p).xor (jumpStart q) := by
    simp [jumpStart, JumpRun.xor, pairXor]
  simp only [scanPair, hstart, ← jumpScan_xor]
  rfl

theorem scanPair_xoroStep (c0 c1 : Word) (p : Pair) :
    scanPair c0 c1 (xoroStep p) = xoroStep (scanPair c0 c1 p) := by
  have hstart : jumpStart (xoroStep p) = (jumpStart p).stepped := by
    simp only [jumpStart, JumpRun.stepped, xoroStep_zero]
  simp only [scanPair, hstart, jumpScan_stepped]
  rfl

/-- The constants of the jump back: the bits `k` of `unjumpConst1 * 2^64 + unjumpConst0` are the powers of `Step` whose XOR
undoes `Jump`. They are `x^(2^128 - 1 - 2^64)` modulo the characteristic polynomial of `Step`; nothing rests on where they
come from, since `jumpAndBack_bit` checks them. -/
def unjumpConst0 : Word := 0xe91a0013bdd8604e

/-- The upper half, as `unjumpConst0`. -/
def unjumpConst1 : Word := 0x3ebccdd65922984a

/-- The jump there and back. -/
def jumpAndBack (p : Pair) : Pair := scanPair unjumpConst0 unjumpConst1 (scanPair jumpConst0 jumpConst1 p)

theorem jumpAndBack_linear : PairLinear jumpAndBack := (scanPair_linear _ _).comp (scanPair_linear _ _)

theorem jumpAndBack_xoroStep (p : Pair) : jumpAndBack (xoroStep p) = xoroStep (jumpAndBack p) := by
  simp only [jumpAndBack, scanPair_xoroStep]

/-- The one computation: the jump there and back returns each one-bit first word. -/
theorem jumpAndBack_bit : ∀ n, n < 64 → jumpAndBack (BitVec.twoPow 64 n, 0) = (BitVec.twoPow 64 n, 0) := by
  decide +kernel

/-- Every word is an XOR of one-bit words. -/
theorem jumpAndBack_word (x : Word) : jumpAndBack (x, 0) = (x, 0) := by
  refine word_bit_induction (P := fun x => jumpAndBack (x, 0) = (x, 0)) jumpAndBack_linear.map_zero ?_ x
  intro x n hn ih
  have e : ((x ^^^ BitVec.twoPow 64 n, 0) : Pair) = pairXor (x, 0) (BitVec.twoPow 64 n, 0) := by simp [pairXor]
  rw [e, jumpAndBack_linear, ih, jumpAndBack_bit n hn]

/-- A pair `(v, v)` steps to a pair with second word 0, and `Step` merges no two pairs. -/
theorem jumpAndBack_same (v : Word) : jumpAndBack (v, v) = (v, v) := by
  refine xoroStep_injective ?_
  rw [← jumpAndBack_xoroStep, xoroStep_same, jumpAndBack_word]

/-- Every pair is the XOR of an `(x, 0)` and a `(v, v)`. -/
theorem jumpAndBack_eq (p : Pair) : jumpAndBack p = p := by
  have e : p = pairXor (p.1 ^^^ p.2, 0) (p.2, p.2) := by simp [pairXor]
  rw [e, jumpAndBack_linear, jumpAndBack_word, jumpAndBack_same]

/-- No non-zero pair jumps to `(0, 0)` (42_jump.md R146). -/
theorem eq_zero_of_xoroJump_eq_zero {p : Pair} (h : xoroJump p = (0, 0)) : p = (0, 0) := by
  rw [xoroJump_eq_scanPair] at h
  rw [← jumpAndBack_eq p, jumpAndBack, h, (scanPair_linear _ _).map_zero]

end Sys2Proof.Machine

/-! SUPPORT. What a command can do to the state, said once for every command (10_state.md R24). -/

namespace Sys2Proof.Machine

/-! ## The five commands that need a seeded state -/

/-- The pair a seeded core is left with: one transition, one jump, or the same pair. -/
def pairAfter : Instr → Pair → Pair
  | .next64, p => xoroStep p
  | .next32, p => xoroStep p
  | .jump, p => xoroJump p
  | _, p => p

/-- The data a seeded core answers (30_encoding.md R80). -/
def dataAfter : Instr → Pair → Word
  | .next64, p => dataOut64 p
  | .next32, p => dataOut32 p
  | .rds0, p => dataWord0 p
  | .rds1, p => dataWord1 p
  | _, _ => dataNone

/-- A command seeds or needs a seeded state (10_state.md R24). -/
theorem isSeeding_eq_not_needsSeeded (i : Instr) : i.isSeeding = !i.needsSeeded := by
  cases i <;> rfl

theorem execState_eq_whenSeeded {i : Instr} (hi : i.needsSeeded = true) (s : State) :
    execState i s =
      whenSeeded (fun u => respond .ok (dataAfter i u.pair) (u.setPair (pairAfter i u.pair))) s := by
  cases i with
  | seed a b => cases hi
  | seedd => cases hi
  | seede => cases hi
  | next64 => rfl
  | next32 => rfl
  | jump => rfl
  | rds0 => rfl
  | rds1 => rfl

theorem execState_seeded {i : Instr} {s : State} (hi : i.needsSeeded = true) (h : s.valid = true) :
    execState i s = respond .ok (dataAfter i s.pair) (s.setPair (pairAfter i s.pair)) := by
  rw [execState_eq_whenSeeded hi, whenSeeded_of_valid h]

/-- A transition, a jump and a read leave `(0, 0)` only if they find it (41_output.md R126, 42_jump.md R146). -/
theorem eq_zero_of_pairAfter_eq_zero {i : Instr} {p : Pair} (h : pairAfter i p = (0, 0)) : p = (0, 0) := by
  cases i with
  | next64 => exact eq_zero_of_xoroStep_eq_zero h
  | next32 => exact eq_zero_of_xoroStep_eq_zero h
  | jump => exact eq_zero_of_xoroJump_eq_zero h
  | seed a b => exact h
  | seedd => exact h
  | seede => exact h
  | rds0 => exact h
  | rds1 => exact h

/-! ## The redraw loop on an attached or absent provider -/

/-- Everything the draws of a `SEEDE` can come to (40_seeding.md R104, R107). -/
theorem drawSeed_cases (s : State) :
    (∃ w0 w1 rest, drawSeed s.hasEntropy s.answers = .drawn w0 w1 rest ∧ (w0, w1) ≠ (0, 0)) ∨
    (∃ rest, drawSeed s.hasEntropy s.answers = .failed rest) ∨
    (drawSeed s.hasEntropy s.answers = .waiting ∧ s.hasEntropy = true) := by
  cases he : s.hasEntropy with
  | false => exact .inr (.inl ⟨s.answers, rfl⟩)
  | true =>
    simp only [drawSeed, if_true]
    obtain ⟨n, ⟨w0, w1, rest, _, hw, hl⟩ | ⟨rest, _, hl⟩ | ⟨_, hl⟩⟩ := drawLoop_cases s.answers
    · exact .inl ⟨w0, w1, rest, hl, hw⟩
    · exact .inr (.inl ⟨rest, hl⟩)
    · exact .inr (.inr ⟨hl, trivial⟩)

/-! ## Every command -/

/-- `Effect s i t`: `t` is a state that command `i` can lead to from `s`, with one constructor for each way a command can
end. -/
inductive Effect (s : State) : Instr → State → Prop
  /-- a command that needs a seeded state, refused (60_exceptions.md R172) -/
  | unseeded {i : Instr} (hi : i.needsSeeded = true) (hv : s.valid = false) : Effect s i (raiseError .notSeeded s)
  /-- a command that needs a seeded state, on a seeded core (R123, R125, R143, R160, R161) -/
  | computed {i : Instr} (hi : i.needsSeeded = true) (hv : s.valid = true) :
      Effect s i (respond .ok (dataAfter i s.pair) (s.setPair (pairAfter i s.pair)))
  /-- `SEED` (40_seeding.md R100) -/
  | seed (a b : Word) : Effect s (.seed a b) (respond .ok dataNone (seedWith (seedOperands a b) s))
  /-- `SEEDD` (R102) -/
  | seedd : Effect s .seedd (respond .ok dataNone (seedWith Config.defaultSeed s))
  /-- `SEEDE` that drew a pair (R104) -/
  | drawn {w0 w1 : Word} {rest : List DrawAnswer} (hd : drawSeed s.hasEntropy s.answers = .drawn w0 w1 rest)
      (hw : (w0, w1) ≠ (0, 0)) :
      Effect s .seede (respond .ok dataNone (advance (seedWith (w0, w1) (s.setAnswers rest))))
  /-- `SEEDE` whose draw failed, or that has no provider (R104) -/
  | failed {rest : List DrawAnswer} (hd : drawSeed s.hasEntropy s.answers = .failed rest) :
      Effect s .seede (raiseError .entropySource (s.setAnswers rest))
  /-- `SEEDE` that waits for its draw (R107) -/
  | waiting (hd : drawSeed s.hasEntropy s.answers = .waiting) (he : s.hasEntropy = true) :
      Effect s .seede (waitForDraw s)

theorem effect_seede (s : State) : Effect s .seede (execState .seede s) := by
  rw [execState_seede]
  obtain ⟨w0, w1, rest, hd, hw⟩ | ⟨rest, hd⟩ | ⟨hd, he⟩ := drawSeed_cases s
  · exact hd ▸ .drawn hd hw
  · exact hd ▸ .failed hd
  · exact hd ▸ .waiting hd he

theorem effect_needsSeeded {i : Instr} (hi : i.needsSeeded = true) (s : State) : Effect s i (execState i s) := by
  cases hv : s.valid with
  | false =>
    rw [execState_unseeded hi hv]
    exact .unseeded hi hv
  | true =>
    rw [execState_seeded hi hv]
    exact .computed hi hv

/-- Every command ends in one of these ways. -/
theorem effect_execState (i : Instr) (s : State) : Effect s i (execState i s) := by
  cases i with
  | seed a b => exact .seed a b
  | seedd => exact .seedd
  | seede => exact effect_seede s
  | next64 => exact effect_needsSeeded rfl s
  | next32 => exact effect_needsSeeded rfl s
  | jump => exact effect_needsSeeded rfl s
  | rds0 => exact effect_needsSeeded rfl s
  | rds1 => exact effect_needsSeeded rfl s

theorem effect_of_exec {i : Instr} {s t : State} (h : exec i s = .next t) : Effect s i t :=
  exec_next_iff.mp h ▸ effect_execState i s

namespace Effect

variable {s t : State} {i : Instr}

/-- What no command touches (10_state.md R31, 20_memory.md R62). -/
theorem frame (h : Effect s i t) : t.commands = s.commands ∧ t.index = s.index ∧ t.hasEntropy = s.hasEntropy := by
  cases h <;> exact ⟨rfl, rfl, rfl⟩

/-- Only `SEEDE` uses draws (R22). -/
theorem answers_eq (h : Effect s i t) (hi : i ≠ .seede) : t.answers = s.answers := by
  cases h with
  | unseeded _ _ => rfl
  | computed _ _ => rfl
  | seed _ _ => rfl
  | seedd => rfl
  | drawn _ _ => exact absurd rfl hi
  | failed _ => exact absurd rfl hi
  | waiting _ _ => exact absurd rfl hi

/-- Draws are used from the front (R22). -/
theorem answers_suffix (h : Effect s i t) : ∃ used, s.answers = used ++ t.answers := by
  cases h with
  | unseeded _ _ => exact ⟨[], rfl⟩
  | computed _ _ => exact ⟨[], rfl⟩
  | seed _ _ => exact ⟨[], rfl⟩
  | seedd => exact ⟨[], rfl⟩
  | drawn hd _ => exact drawSeed_rest (.inl ⟨_, _, hd⟩)
  | failed hd => exact drawSeed_rest (.inr hd)
  | waiting _ _ => exact ⟨s.answers, by simp⟩

/-- A command has given its one response, or is a `SEEDE` that waits (R23, 40_seeding.md R107). -/
theorem responds_or_waits (h : Effect s i t) :
    (∃ r, t.rsp = some r) ∧ t.drawPending = false ∨ t.rsp = none ∧ t.drawPending = true ∧ i = .seede := by
  cases h with
  | waiting _ _ => exact .inr ⟨rfl, rfl, rfl⟩
  | unseeded _ _ => exact .inl ⟨⟨_, rfl⟩, rfl⟩
  | computed _ _ => exact .inl ⟨⟨_, rfl⟩, rfl⟩
  | seed _ _ => exact .inl ⟨⟨_, rfl⟩, rfl⟩
  | seedd => exact .inl ⟨⟨_, rfl⟩, rfl⟩
  | drawn _ _ => exact .inl ⟨⟨_, rfl⟩, rfl⟩
  | failed _ => exact .inl ⟨⟨_, rfl⟩, rfl⟩

/-- `VALID` is kept, or the command is a seeding command that has answered `{OK, 0}` and set it (R24). -/
theorem valid_kept_or_set (h : Effect s i t) :
    t.valid = s.valid ∧ (i.isSeeding = true → t.rsp ≠ some ⟨.ok, 0⟩) ∨
    t.valid = true ∧ i.isSeeding = true ∧ t.rsp = some ⟨.ok, 0⟩ := by
  cases h with
  | unseeded _ _ => exact .inl ⟨rfl, fun _ => by simp [errorStatus]⟩
  | computed hi _ => exact .inl ⟨rfl, fun hs => by simp [isSeeding_eq_not_needsSeeded, hi] at hs⟩
  | seed _ _ => exact .inr ⟨rfl, rfl, rfl⟩
  | seedd => exact .inr ⟨rfl, rfl, rfl⟩
  | drawn _ _ => exact .inr ⟨rfl, rfl, rfl⟩
  | failed _ => exact .inl ⟨rfl, fun _ => by simp [errorStatus]⟩
  | waiting _ _ => exact .inl ⟨rfl, fun _ => by simp⟩

end Effect

end Sys2Proof.Machine

/-! SUPPORT. The statements of 10_state.md: the invariant, the degenerate state, the flag, the frame, equal states, reset. -/

namespace Sys2Proof.Machine

/-! ## The invariant of the machine -/

theorem inv_respond {st : Status} {d : Word} {s : State} (hdata : st ≠ .ok → d = 0)
    (hok : st = .ok → s.valid = true) (hun : st = .errUnseeded → s.valid = false) : (respond st d s).Inv := by
  refine ⟨nofun, fun r hr => ?_⟩
  cases hr
  exact ⟨hdata, hok, hun⟩

theorem inv_respond_ok {s : State} (d : Word) (hv : s.valid = true) : (respond .ok d s).Inv :=
  inv_respond (absurd rfl) (fun _ => hv) nofun

theorem inv_raiseError {e : ErrorCause} {s : State} (h : e = .notSeeded → s.valid = false) :
    (raiseError e s).Inv := by
  refine inv_respond (fun _ => rfl) (fun he => ?_) (fun he => h ?_)
  · cases e <;> cases he
  · cases e with
    | notSeeded => rfl
    | entropySource => cases he
    | illegalCommand => cases he

theorem inv_waitForDraw {s : State} (he : s.hasEntropy = true) : (waitForDraw s).Inv :=
  ⟨fun _ => ⟨rfl, he⟩, nofun⟩

/-- Every way a command can end has the invariant, whatever the state before it was. -/
theorem Effect.inv {s t : State} {i : Instr} (h : Effect s i t) : t.Inv := by
  cases h with
  | unseeded _ hv => exact inv_raiseError fun _ => hv
  | computed _ hv => exact inv_respond_ok _ hv
  | seed _ _ => exact inv_respond_ok _ rfl
  | seedd => exact inv_respond_ok _ rfl
  | drawn _ _ => exact inv_respond_ok _ rfl
  | failed _ => exact inv_raiseError nofun
  | waiting _ he => exact inv_waitForDraw he

/-- Settles O51: a command in flight and an accepted one end with the invariant whatever was before, and an idle step keeps
the state. -/
theorem everyStepKeepsInvariant : Obligations.EveryStepKeepsInvariant := by
  intro s t hs hstep
  obtain ⟨_, rfl⟩ | ⟨_, _, rfl⟩ | ⟨cw, rest, i, _, _, _, rfl⟩ | ⟨cw, rest, e, _, _, _, rfl⟩ := step_cases hstep
  · exact (effect_execState .seede s).inv
  · exact hs
  · exact (effect_execState i _).inv
  · exact inv_raiseError nofun

/-- Settles O52: no response and no command in flight. -/
theorem resetHasInvariant : Obligations.ResetHasInvariant :=
  ⟨⟨nofun, nofun⟩, fun _ => ⟨nofun, nofun⟩⟩

/-! ## The degenerate state -/

/-- A seeded core is not at `(0, 0)`. -/
def State.NonzeroWhenSeeded (s : State) : Prop := s.valid = true → ¬ s.degenerate

/-- Every command but `SEED 0, 0` keeps a seeded core away from `(0, 0)`. -/
theorem Effect.nonzeroWhenSeeded {s t : State} {i : Instr} (h : Effect s i t) (hi : i ≠ .seed 0 0)
    (hs : s.NonzeroWhenSeeded) : t.NonzeroWhenSeeded := by
  cases h with
  | unseeded _ _ => exact hs
  | computed _ hv => exact fun _ hz => hs hv (eq_zero_of_pairAfter_eq_zero hz)
  | seed a b =>
    intro _ hz
    obtain ⟨rfl, rfl⟩ := Prod.mk.inj hz
    exact hi rfl
  | seedd => exact fun _ hz => defaultSeed_ne_zero hz
  | drawn _ hw => exact fun _ hz => hw (eq_zero_of_xoroStep_eq_zero hz)
  | failed _ => exact hs
  | waiting _ _ => exact hs

/-- Settles O53: `Step` and `Jump` send no non-zero pair to `(0, 0)`, and the default pair and the pair drawn are not
`(0, 0)`. -/
theorem onlyZeroSeedDegenerates : Obligations.OnlyZeroSeedDegenerates := by
  intro s t hs hcmd hstep
  obtain ⟨_, rfl⟩ | ⟨_, _, rfl⟩ | ⟨cw, rest, i, hp, hc, hd, rfl⟩ | ⟨cw, rest, e, _, _, _, rfl⟩ := step_cases hstep
  · exact (effect_execState .seede s).nonzeroWhenSeeded nofun hs
  · exact hs
  · have hi : i ≠ .seed 0 0 := by
      rintro rfl
      obtain hfly | hne := hcmd
      · exact absurd (hp.symm.trans hfly) nofun
      · exact hne cw rest hc hd
    exact (effect_execState i (accept rest s)).nonzeroWhenSeeded hi hs
  · exact hs

/-! ## The flag and the frame -/

/-- Settles O13: the accepted word is decoded and ends in one of the ways of a command, or is reserved and answered at
once. -/
theorem oneResponsePerCommand : Obligations.OneResponsePerCommand := by
  intro s t cw rest hp hc hstep
  rw [step_command hp hc, Host.Outcome.next.injEq] at hstep
  cases hd : decode cw with
  | ok i =>
    rw [wordState_ok hd] at hstep
    have h : Effect (accept rest s) i t := hstep ▸ effect_execState i _
    obtain ⟨hcommands, hindex, _⟩ := h.frame
    refine ⟨hcommands, hindex, h.responds_or_waits.imp_right ?_⟩
    rintro ⟨hr, ht, rfl⟩
    exact ⟨hr, ht, rfl⟩
  | error e =>
    rw [wordState_error hd] at hstep
    subst hstep
    exact ⟨rfl, rfl, .inl ⟨⟨_, rfl⟩, rfl⟩⟩

theorem Effect.keeps_valid {s t : State} {i : Instr} (h : Effect s i t) (hv : s.valid = true) : t.valid = true := by
  obtain ⟨heq, _⟩ | ⟨hset, _⟩ := h.valid_kept_or_set
  · exact heq.trans hv
  · exact hset

theorem step_keeps_valid {s t : State} (hstep : step s = .next t) (hv : s.valid = true) : t.valid = true := by
  obtain ⟨_, rfl⟩ | ⟨_, _, rfl⟩ | ⟨cw, rest, i, _, _, _, rfl⟩ | ⟨cw, rest, e, _, _, _, rfl⟩ := step_cases hstep
  · exact (effect_execState .seede s).keeps_valid hv
  · exact hv
  · exact (effect_execState i (accept rest s)).keeps_valid hv
  · exact hv

/-- A seeding command does not read `VALID` (R24). -/
theorem execState_flip_valid {i : Instr} (hi : i.isSeeding = true) (s : State) (b : Bool) :
    (execState i { s with valid := b }).rsp = (execState i s).rsp ∧
    (execState i { s with valid := b }).pair = (execState i s).pair := by
  cases i with
  | seed a b => exact ⟨rfl, rfl⟩
  | seedd => exact ⟨rfl, rfl⟩
  | seede =>
    rw [execState_seede, execState_seede]
    cases drawSeed s.hasEntropy s.answers <;> exact ⟨rfl, rfl⟩
  | next64 => cases hi
  | next32 => cases hi
  | jump => cases hi
  | rds0 => cases hi
  | rds1 => cases hi

/-- `RDS0` tells `VALID` and writes nothing (43_state_read.md R160). -/
theorem execState_rds0_tells_valid (s : State) :
    ∃ r, (execState .rds0 s).rsp = some r ∧ (r.status = .ok ↔ s.valid = true) ∧
      (execState .rds0 s).s0 = s.s0 ∧ (execState .rds0 s).s1 = s.s1 ∧ (execState .rds0 s).valid = s.valid := by
  cases hv : s.valid with
  | false =>
    rw [execState_unseeded rfl hv]
    exact ⟨⟨.errUnseeded, 0⟩, rfl, by simp, rfl, rfl, hv⟩
  | true =>
    rw [execState_seeded rfl hv]
    exact ⟨⟨.ok, s.s0⟩, rfl, by simp, rfl, rfl, hv⟩

/-- Settles O45: a command keeps `VALID` or is a seeding command that answered `{OK, 0}`; the seeding commands do not read
it, and `RDS0` tells it. -/
theorem validFlagRule : Obligations.ValidFlagRule := by
  refine ⟨fun s t => step_keeps_valid, fun s => rfl, ?setOnly, ?sets, ?refused, ?notRead, ?probe⟩
  case setOnly =>
    intro i s t hexec h0 h1
    obtain ⟨heq, _⟩ | ⟨_, hseed, hrsp⟩ := (effect_of_exec hexec).valid_kept_or_set
    · rw [heq, h0] at h1
      cases h1
    · exact ⟨hseed, hrsp⟩
  case sets =>
    intro i s t hseed hexec hrsp
    obtain ⟨_, hnot⟩ | ⟨hset, _⟩ := (effect_of_exec hexec).valid_kept_or_set
    · exact absurd hrsp (hnot hseed)
    · exact hset
  case refused =>
    intro i s hi hv
    exact ⟨_, exec_eq i s, by rw [execState_unseeded hi hv]; rfl⟩
  case notRead =>
    intro i s t hseed hexec
    obtain rfl := exec_next_iff.mp hexec
    obtain ⟨hrsp, hpair⟩ := execState_flip_valid hseed s (!s.valid)
    obtain ⟨h0, h1⟩ := Prod.mk.inj hpair
    exact ⟨_, exec_eq i _, hrsp, h0, h1⟩
  case probe =>
    intro s
    obtain ⟨r, hr⟩ := execState_rds0_tells_valid s
    exact ⟨_, r, exec_eq .rds0 s, hr⟩

/-- Settles O46: the frame of a command, and the draws it uses. -/
theorem commandsLeaveOutsideAlone : Obligations.CommandsLeaveOutsideAlone := by
  intro i s t hexec
  have h := effect_of_exec hexec
  obtain ⟨hcommands, hindex, hentropy⟩ := h.frame
  exact ⟨hcommands, hindex, hentropy, h.answers_eq, h.answers_suffix⟩

/-! ## Equal seeded states -/

theorem stepState_idle {s : State} (h : s.drawPending = false) (hc : s.commands = []) : stepState s = s := by
  simp [stepState, h, hc]

theorem stepState_command {s : State} {cw : CommandWord} {rest : List CommandWord} (h : s.drawPending = false)
    (hc : s.commands = cw :: rest) : stepState s = wordState cw (accept rest s) := by
  simp [stepState, h, hc]

theorem responseAt_eq (n : Nat) (s : State) : responseAt n s = (stepState^[n + 1] s).rsp.map responseWord := by
  simp only [responseAt, run_eq]

/-- Seeding a core that is seeded already only sets its pair. -/
theorem seedWith_of_valid {s : State} (hv : s.valid = true) (p : Pair) : seedWith p s = s.setPair p := by
  cases s
  cases hv
  rfl

/-- What a seeded core answers to a word other than `SEEDE`, and the pair it is left with, are fixed by the word and the
pair before (R20). -/
theorem wordState_seeded {cw : CommandWord} (hcw : decode cw ≠ .ok .seede) (p : Pair) :
    ∃ st d q, ∀ s : State, s.valid = true → s.pair = p → wordState cw s = respond st d (s.setPair q) := by
  cases hd : decode cw with
  | error e =>
    refine ⟨.errIllegal, 0, p, fun s _ hp => ?_⟩
    rw [wordState_error hd, ← hp]
    rfl
  | ok i =>
    cases hi : i.needsSeeded with
    | true =>
      refine ⟨.ok, dataAfter i p, pairAfter i p, fun s hv hp => ?_⟩
      rw [wordState_ok hd, execState_seeded hi hv, hp]
    | false =>
      cases i with
      | seed a b => exact ⟨.ok, dataNone, (a, b), fun s hv _ => by rw [wordState_ok hd, ← seedWith_of_valid hv]; rfl⟩
      | seedd =>
        exact ⟨.ok, dataNone, Config.defaultSeed, fun s hv _ => by rw [wordState_ok hd, ← seedWith_of_valid hv]; rfl⟩
      | seede => exact absurd hd hcw
      | next64 => cases hi
      | next32 => cases hi
      | jump => cases hi
      | rds0 => cases hi
      | rds1 => cases hi

/-- Two seeded idle cores with equal pairs and the same coming commands, none of them `SEEDE`. -/
structure SeededAlike (s t : State) : Prop where
  pair : s.pair = t.pair
  valid_left : s.valid = true
  valid_right : t.valid = true
  idle_left : s.drawPending = false
  idle_right : t.drawPending = false
  commands : s.commands = t.commands
  no_seede : ∀ cw ∈ s.commands, decode cw ≠ .ok .seede

/-- A step keeps two cores alike and gives them the same response, unless neither runs a command and their old
responses differ. -/
theorem SeededAlike.step {s t : State} (h : SeededAlike s t) (hr : s.commands ≠ [] ∨ s.rsp = t.rsp) :
    SeededAlike (stepState s) (stepState t) ∧ (stepState s).rsp = (stepState t).rsp := by
  cases hc : s.commands with
  | nil =>
    rw [stepState_idle h.idle_left hc, stepState_idle h.idle_right (h.commands ▸ hc)]
    exact ⟨h, hr.resolve_left (· hc)⟩
  | cons cw rest =>
    have hno := h.no_seede
    rw [hc, List.forall_mem_cons] at hno
    obtain ⟨hcw, hrest⟩ := hno
    obtain ⟨st, d, q, hq⟩ := wordState_seeded hcw s.pair
    rw [stepState_command h.idle_left hc, stepState_command h.idle_right (h.commands ▸ hc),
      hq (accept rest s) h.valid_left rfl, hq (accept rest t) h.valid_right h.pair.symm]
    exact ⟨⟨rfl, h.valid_left, h.valid_right, rfl, rfl, rfl, hrest⟩, rfl⟩

theorem SeededAlike.rsp_iterate {s t : State} (h : SeededAlike s t) (hr : s.commands ≠ [] ∨ s.rsp = t.rsp) (n : Nat) :
    (stepState^[n + 1] s).rsp = (stepState^[n + 1] t).rsp := by
  induction n generalizing s t with
  | zero => exact (h.step hr).2
  | succ n ih =>
    obtain ⟨halike, hrsp⟩ := h.step hr
    exact ih halike (.inr hrsp)

/-- Settles O48: the two cores stay alike, by induction on the number of steps. -/
theorem equalStatesEqualResponses : Obligations.EqualStatesEqualResponses := by
  intro s t hpair hvs hvt hps hpt hc hne hno n
  have h : SeededAlike s t := ⟨hpair, hvs, hvt, hps, hpt, hc, hno⟩
  rw [responseAt_eq, responseAt_eq, h.rsp_iterate (.inl hne)]

/-! ## Reset -/

/-- Settles O49: each command is decoded from its own word, and runs on an unseeded core. -/
theorem resetState : Obligations.ResetState := by
  refine ⟨rfl, rfl, rfl, rfl, fun i rest hi => ?_, fun a b rest => ?_⟩
  · rw [step_command rfl rfl, wordState_ok (decode_encode i), execState_unseeded hi rfl]
    rfl
  · rw [step_command rfl rfl, wordState_ok (decode_encode (.seed a b))]
    rfl

end Sys2Proof.Machine

/-! SUPPORT. The statements of 20_memory.md: the step, responses as a function of core and world, buffer filling,
several instances. -/

namespace Sys2Proof.Machine

/-! ## The step -/

/-- Settles O8: the accepted word is decoded, and its command runs on the state after `accept`. -/
theorem stepRunsDecodedCommand : Obligations.StepRunsDecodedCommand := by
  intro s cw rest i hp hc hd
  rw [step_command hp hc, wordState_ok hd, exec_eq]
  rfl

/-- Settles O9: `SEEDE` goes on, and it touches neither the host's list nor the index. -/
theorem stepContinuesSeedeInFlight : Obligations.StepContinuesSeedeInFlight := by
  intro s hp
  obtain ⟨hcommands, hindex, _⟩ := (effect_execState .seede s).frame
  exact ⟨_, step_inFlight hp, exec_eq .seede s, hcommands, hindex⟩

/-! ## Responses are a function of core and world (R63) -/

/-- The state with another past: another last response, and another number of commands accepted so far. -/
def State.withPast (r : Option Response) (n : Nat) (s : State) : State := { s with rsp := r, index := n }

/-- Two states with the same core and the same world differ in their past only. -/
theorem eq_withPast {s t : State} (hcore : s.SameCore t) (hworld : s.SameWorld t) :
    t = s.withPast t.rsp t.index := by
  obtain ⟨h0, h1, hvalid, hpending⟩ := hcore
  obtain ⟨hcommands, hentropy, hanswers⟩ := hworld
  cases s
  cases t
  simp_all [State.withPast]

/-- A command forgets the last response and does not look at the index. -/
theorem execState_withPast (i : Instr) (r : Option Response) (n : Nat) (s : State) :
    execState i (s.withPast r n) = (execState i s).withPast (execState i s).rsp n := by
  cases hi : i.needsSeeded with
  | true =>
    cases hv : s.valid with
    | false =>
      rw [execState_unseeded hi hv, execState_unseeded hi (s := s.withPast r n) hv]
      rfl
    | true =>
      rw [execState_seeded hi hv, execState_seeded hi (s := s.withPast r n) hv]
      rfl
  | false =>
    cases i with
    | seed a b => rfl
    | seedd => rfl
    | seede =>
      rw [execState_seede, execState_seede]
      change seedeOn (drawSeed s.hasEntropy s.answers) _ = _
      cases drawSeed s.hasEntropy s.answers <;> rfl
    | next64 => cases hi
    | next32 => cases hi
    | jump => cases hi
    | rds0 => cases hi
    | rds1 => cases hi

/-- An accepted word forgets the last response and does not look at the index. -/
theorem wordState_withPast (cw : CommandWord) (r : Option Response) (n : Nat) (s : State) :
    wordState cw (s.withPast r n) = (wordState cw s).withPast (wordState cw s).rsp n := by
  cases hd : decode cw with
  | ok i => rw [wordState_ok hd, wordState_ok hd, execState_withPast]
  | error e =>
    rw [wordState_error hd, wordState_error hd]
    rfl

theorem stepState_inFlight {s : State} (h : s.drawPending = true) : stepState s = execState .seede s := by
  simp [stepState, h]

/-- After a step that runs something, or with the same response before it, another past is another index only. -/
theorem stepState_withPast {s : State} {r : Option Response}
    (h : (s.drawPending = true ∨ s.commands ≠ []) ∨ r = s.rsp) (n : Nat) :
    ∃ m, stepState (s.withPast r n) = (stepState s).withPast (stepState s).rsp m := by
  cases hp : s.drawPending with
  | true =>
    rw [stepState_inFlight hp, stepState_inFlight (s := s.withPast r n) hp]
    exact ⟨n, execState_withPast .seede r n s⟩
  | false =>
    cases hc : s.commands with
    | nil =>
      rw [stepState_idle hp hc, stepState_idle (s := s.withPast r n) hp hc]
      obtain rfl : r = s.rsp := h.resolve_left (by simp [hp, hc])
      exact ⟨n, rfl⟩
    | cons cw rest =>
      rw [stepState_command hp hc, stepState_command (s := s.withPast r n) hp hc]
      exact ⟨n + 1, wordState_withPast cw none (n + 1) (accept rest s)⟩

theorem stepState_iterate_withPast {s : State} (h : s.drawPending = true ∨ s.commands ≠ []) (r : Option Response)
    (n k : Nat) :
    ∃ m, stepState^[k + 1] (s.withPast r n) = (stepState^[k + 1] s).withPast (stepState^[k + 1] s).rsp m := by
  induction k with
  | zero => exact stepState_withPast (.inl h) n
  | succ k ih =>
    obtain ⟨m, hm⟩ := ih
    rw [Function.iterate_succ_apply', Function.iterate_succ_apply' stepState (k + 1) s, hm]
    exact stepState_withPast (.inr rfl) m

/-- Settles O47: the second state is the first with another past, which no response shows from the first step on. -/
theorem responsesAreDetermined : Obligations.ResponsesAreDetermined := by
  intro s t hcore hworld hrun n
  obtain ⟨m, hm⟩ := stepState_iterate_withPast hrun t.rsp t.index n
  rw [responseAt_eq, responseAt_eq, eq_withPast hcore hworld, hm]
  rfl

/-! ## Filling a buffer (R56) -/

/-- A seeded idle instance after one `NEXT64` that a host issued. -/
def afterNext64 (s : State) : State := respond .ok (xoroOut s.pair) (advance (accept s.commands s))

theorem transact_next64 {s : State} (hv : s.valid = true) (hp : s.drawPending = false) :
    transact .next64 s = some (xoroOut s.pair, afterNext64 s) := by
  have hissue : issue .next64 s = some (afterNext64 s) := by
    rw [issue_of_idle .next64 hp, wordState_ok (decode_encode .next64),
      execState_seeded (s := accept _ (present _ s)) rfl hv]
    rfl
  simp [transact, hissue, afterNext64, okData]

/-- The first `k` outputs of a pair, each taken before its transition (41_output.md R124). -/
def outputs (k : Nat) (p : Pair) : List Word := (List.range k).map fun q => xoroOut (xoroStep^[q] p)

theorem length_outputs (k : Nat) (p : Pair) : (outputs k p).length = k := by simp [outputs]

theorem outputs_getElem? {q k : Nat} (h : q < k) (p : Pair) : (outputs k p)[q]? = some (xoroOut (xoroStep^[q] p)) := by
  simp [outputs, h]

theorem outputs_succ (k : Nat) (p : Pair) : outputs (k + 1) p = xoroOut p :: outputs k (xoroStep p) := by
  simp only [outputs, List.range_succ_eq_map, List.map_cons, List.map_map]
  rfl

theorem drawChunks_seeded (k : Nat) {s : State} (hv : s.valid = true) (hp : s.drawPending = false) :
    drawChunks k s = some (outputs k s.pair, afterNext64^[k] s) := by
  induction k generalizing s with
  | zero => rfl
  | succ k ih =>
    have hrest : drawChunks k (afterNext64 s) = some (outputs k (xoroStep s.pair), afterNext64^[k] (afterNext64 s)) :=
      ih hv rfl
    simp only [drawChunks, transact_next64 hv hp, hrest, outputs_succ, Function.iterate_succ_apply]

theorem afterNext64_iterate_pair (k : Nat) (s : State) : (afterNext64^[k] s).pair = xoroStep^[k] s.pair :=
  Function.Semiconj.iterate_right (f := State.pair) (fun _ => rfl) k s

theorem afterNext64_iterate_index (k : Nat) (s : State) : (afterNext64^[k] s).index = s.index + k := by
  induction k with
  | zero => rfl
  | succ k ih =>
    rw [Function.iterate_succ_apply', ← Nat.add_assoc, ← ih]
    rfl

theorem length_chunkBytes (v : Word) : (chunkBytes v).length = 8 := by simp [chunkBytes]

theorem chunkBytes_getElem? (v : Word) {k : Nat} (hk : k < 8) : (chunkBytes v)[k]? = some (byteOf v k) := by
  simp [chunkBytes, hk]

theorem length_flatMap_chunkBytes (vs : List Word) : (vs.flatMap chunkBytes).length = 8 * vs.length := by
  simp [List.length_flatMap, length_chunkBytes, Nat.mul_comm]

/-- Byte `8q + k` of the chunks in a row is byte `k` of chunk `q`. -/
theorem flatMap_chunkBytes_getElem? (vs : List Word) (q : Nat) {k : Nat} (hk : k < 8) :
    (vs.flatMap chunkBytes)[8 * q + k]? = vs[q]?.map (byteOf · k) := by
  induction vs generalizing q with
  | nil => rfl
  | cons v vs ih =>
    rw [List.flatMap_cons]
    cases q with
    | zero =>
      rw [List.getElem?_append_left (by rw [length_chunkBytes]; omega), Nat.mul_zero, Nat.zero_add,
        chunkBytes_getElem? v hk]
      rfl
    | succ q =>
      have hindex : 8 * (q + 1) + k - (chunkBytes v).length = 8 * q + k := by rw [length_chunkBytes]; omega
      rw [List.getElem?_append_right (by rw [length_chunkBytes]; omega), hindex, ih]
      rfl

theorem fillBytes_seeded (n : Nat) {s : State} (hv : s.valid = true) (hp : s.drawPending = false) :
    fillBytes n s =
      some (((outputs (chunkCount n) s.pair).flatMap chunkBytes).take n, afterNext64^[chunkCount n] s) := by
  simp only [fillBytes, drawChunks_seeded _ hv hp]

/-- Settles O54: the chunks are the outputs in order, eight bytes each, and `ceil(n / 8)` of them reach `n` bytes. -/
theorem bufferFillRule : Obligations.BufferFillRule := by
  refine ⟨fun s => rfl, fun n s hv hp => ?_⟩
  refine ⟨_, _, fillBytes_seeded n hv hp, ?length, afterNext64_iterate_pair _ s, afterNext64_iterate_index _ s,
    ?bytes⟩
  case length =>
    rw [List.length_take, length_flatMap_chunkBytes, length_outputs, chunkCount]
    omega
  case bytes =>
    intro q k hk hlt
    have hq : q < chunkCount n := by rw [chunkCount]; omega
    rw [List.getElem?_take_of_lt hlt, flatMap_chunkBytes_getElem? _ q hk, outputs_getElem? hq]
    rfl

/-- One byte or more takes at least one chunk. -/
theorem exists_chunkCount_eq_succ {n : Nat} (h : 0 < n) : ∃ k, chunkCount n = k + 1 :=
  ⟨chunkCount n - 1, by rw [chunkCount]; omega⟩

/-- A fill of one byte or more sees an instance only through the first `NEXT64` issued to it. -/
theorem fillBytes_eq_of_issue_eq {n : Nat} (hn : 0 < n) {s t : State} (h : issue .next64 s = issue .next64 t) :
    fillBytes n s = fillBytes n t := by
  obtain ⟨k, hk⟩ := exists_chunkCount_eq_succ hn
  simp only [fillBytes, hk, drawChunks, transact, h]

theorem fillBytes_of_issue_eq_none {n : Nat} (hn : 0 < n) {s : State} (h : issue .next64 s = none) :
    fillBytes n s = none := by
  obtain ⟨k, hk⟩ := exists_chunkCount_eq_succ hn
  simp only [fillBytes, hk, drawChunks, transact, h]

/-- Settles O55: the first `NEXT64` is issued to the state in which the `SEEDE` has ended, or not at all. -/
theorem fillWaitsForSeede : Obligations.FillWaitsForSeede := by
  intro n s hn hp
  have hwait := awaitIdle_of_inFlight hp
  refine ⟨stepState s, step_eq s, fun hq => ?_, fun hq => ?_⟩
  · rw [hq, if_pos rfl] at hwait
    exact fillBytes_of_issue_eq_none hn (issue_of_waiting .next64 hwait)
  · rw [hq, if_neg Bool.false_ne_true] at hwait
    exact fillBytes_eq_of_issue_eq hn (issue_of_awaitIdle .next64 hwait)

/-! ## Several instances (R60) -/

/-- A step of instance `j`, where there is one, replaces its state alone. -/
theorem stepInstance_eq_some {j : Nat} {sys sys1 : System} (h : stepInstance j sys = some sys1) :
    ∃ u, sys[j]? = some u ∧ sys1 = sys.set j (stepState u) := by
  cases hj : sys[j]? with
  | none => simp [stepInstance, hj] at h
  | some u => exact ⟨u, rfl, by simpa [stepInstance, hj, step_eq, nextOf] using h.symm⟩

theorem stepInstance_getElem?_self {k : Nat} {sys sys1 : System} {s : State} (h : stepInstance k sys = some sys1)
    (hk : sys[k]? = some s) : sys1[k]? = some (stepState s) := by
  obtain ⟨u, hu, rfl⟩ := stepInstance_eq_some h
  obtain rfl : u = s := Option.some.inj (hu.symm.trans hk)
  rw [List.getElem?_set_self', hk]
  rfl

theorem stepInstance_getElem?_ne {j k : Nat} {sys sys1 : System} (h : stepInstance j sys = some sys1) (hne : j ≠ k) :
    sys1[k]? = sys[k]? := by
  obtain ⟨u, _, rfl⟩ := stepInstance_eq_some h
  exact List.getElem?_set_ne hne

theorem runSystem_cons_eq_some {j : Nat} {order : List Nat} {sys sys1 : System}
    (h : runSystem (j :: order) sys = some sys1) :
    ∃ sys2, stepInstance j sys = some sys2 ∧ runSystem order sys2 = some sys1 := by
  cases hj : stepInstance j sys with
  | none => simp [runSystem, hj] at h
  | some sys2 => exact ⟨sys2, rfl, by simpa [runSystem, hj] using h⟩

/-- After any order of steps an instance has taken as many as the order gives it. -/
theorem runSystem_getElem? {order : List Nat} {sys sys1 : System} {k : Nat} {s : State}
    (h : runSystem order sys = some sys1) (hk : sys[k]? = some s) :
    sys1[k]? = some (stepState^[order.count k] s) := by
  induction order generalizing sys s with
  | nil =>
    obtain rfl : sys = sys1 := Option.some.inj h
    exact hk
  | cons j order ih =>
    obtain ⟨sys2, hstep, hrun⟩ := runSystem_cons_eq_some h
    by_cases hj : j = k
    · subst hj
      rw [List.count_cons_self, Function.iterate_succ_apply]
      exact ih hrun (stepInstance_getElem?_self hstep hk)
    · rw [List.count_cons_of_ne hj]
      exact ih hrun ((stepInstance_getElem?_ne hstep hj).trans hk)

/-- Settles O58, by induction on the order of steps: a step of another instance leaves instance `k` as it is. -/
theorem instancesAreIndependent : Obligations.InstancesAreIndependent := by
  intro order sys sys1 k s h hk
  exact ⟨_, run_eq _ s, runSystem_getElem? h hk⟩

end Sys2Proof.Machine

/-! SUPPORT. The statements of 30_encoding.md on words: the command word and its fields, the opcode map, the response word,
reserved opcodes. -/

namespace Sys2Proof

/-! ## The command word (R71) -/

/-- Fields put side by side, as a number. -/
theorem toNat_append_eq_add {m n : Nat} (x : BitVec m) (y : BitVec n) :
    (x ++ y).toNat = x.toNat * 2 ^ n + y.toNat := by
  rw [BitVec.toNat_append, ← Nat.shiftLeft_add_eq_or_of_lt y.isLt, Nat.shiftLeft_eq]

theorem toNat_packCommand (op : BitVec 4) (a b : Word) :
    (packCommand op a b).toNat = op.toNat * 2 ^ 128 + a.toNat * 2 ^ 64 + b.toNat := by
  rw [packCommand, toNat_append_eq_add, toNat_append_eq_add, Nat.add_assoc]

theorem toNat_opField (cw : CommandWord) : (opField cw).toNat = cw.toNat / 2 ^ 128 := by
  have hlt := cw.isLt
  rw [opField, BitVec.extractLsb'_toNat, Nat.shiftRight_eq_div_pow]
  omega

theorem toNat_aField (cw : CommandWord) : (aField cw).toNat = cw.toNat / 2 ^ 64 % 2 ^ 64 := by
  rw [aField, BitVec.extractLsb'_toNat, Nat.shiftRight_eq_div_pow]

theorem toNat_bField (cw : CommandWord) : (bField cw).toNat = cw.toNat % 2 ^ 64 := by
  rw [bField, BitVec.extractLsb'_toNat, Nat.shiftRight_zero]

/-- Every word is the packing of its fields. -/
theorem packCommand_fields (cw : CommandWord) : packCommand (opField cw) (aField cw) (bField cw) = cw := by
  refine BitVec.eq_of_toNat_eq ?_
  rw [toNat_packCommand, toNat_opField, toNat_aField, toNat_bField]
  omega

/-- Settles O1: the word is the number of its fields, and the fields are the digits of that number. -/
theorem commandWordLayout : Obligations.CommandWordLayout :=
  ⟨fun op a b => ⟨toNat_packCommand op a b, opField_packCommand op a b, aField_packCommand op a b,
      bField_packCommand op a b⟩,
    fun cw => ⟨packCommand_fields cw, toNat_opField cw, toNat_aField cw, toNat_bField cw⟩⟩

/-! ## The opcode map (R72, R76, R77, R78) -/

/-- Settles O5: every row of the opcode map is encoded by its own opcode. -/
theorem decodeEncodeEveryCommand : Obligations.DecodeEncodeEveryCommand := decode_encode

theorem decode_of_opField {cw : CommandWord} {op : BitVec 4} (h : opField cw = op) :
    decode cw = decodeFields op (aField cw) (bField cw) := by
  rw [decode, h]

theorem decodeFields_reserved {op : BitVec 4} (h : op = 0x0 ∨ 0x9 ≤ op) (a b : Word) :
    decodeFields op a b = .error (.reserved op) := by
  have hnat : op.toNat = 0 ∨ 9 ≤ op.toNat := h.imp (congrArg BitVec.toNat) BitVec.le_def.mp
  unfold decodeFields
  split
  case h_9 => rfl
  all_goals omega

theorem decode_reserved {cw : CommandWord} (h : opField cw = 0x0 ∨ 0x9 ≤ opField cw) :
    decode cw = .error (.reserved (opField cw)) :=
  decodeFields_reserved h _ _

/-- Settles O2: each assigned opcode names its row, and the others are reserved. -/
theorem decodeIsOpcodeMap : Obligations.DecodeIsOpcodeMap := fun _ =>
  ⟨decode_of_opField, decode_of_opField, decode_of_opField, decode_of_opField, decode_of_opField, decode_of_opField,
    decode_of_opField, decode_of_opField, decode_reserved⟩

/-- Only `SEED` reads the operand fields (R72). -/
theorem decodeFields_ignores_operands {op : BitVec 4} (h : op ≠ 0x1) (a b a' b' : Word) :
    decodeFields op a b = decodeFields op a' b' := by
  unfold decodeFields
  split
  case h_1 hop => exact absurd (BitVec.eq_of_toNat_eq hop) h
  all_goals rfl

/-- The encoder drives unused operand fields to zero (R72, R81). -/
theorem encode_unused_operands {i : Instr} (h : opField (encode i) ≠ 0x1) :
    aField (encode i) = 0 ∧ bField (encode i) = 0 := by
  cases i with
  | seed a b => exact absurd (opField_packCommand 0x1 a b) h
  | seedd => exact ⟨aField_packCommand .., bField_packCommand ..⟩
  | seede => exact ⟨aField_packCommand .., bField_packCommand ..⟩
  | next64 => exact ⟨aField_packCommand .., bField_packCommand ..⟩
  | next32 => exact ⟨aField_packCommand .., bField_packCommand ..⟩
  | jump => exact ⟨aField_packCommand .., bField_packCommand ..⟩
  | rds0 => exact ⟨aField_packCommand .., bField_packCommand ..⟩
  | rds1 => exact ⟨aField_packCommand .., bField_packCommand ..⟩

/-! ## The opcode table (R76) -/

/-- The opcode that the opcode map gives a command's mnemonic; the pseudo-instructions have no encoding of their own. -/
def Mnemonic.opcode : Mnemonic → BitVec 4
  | .seed => 0x1
  | .seedd => 0x2
  | .seede => 0x3
  | .next64 => 0x4
  | .next32 => 0x5
  | .jump => 0x6
  | .rds0 => 0x7
  | .rds1 => 0x8
  | _ => 0x0

theorem opcodeOf_eq_opcode (i : Instr) : opcodeOf i = i.mnemonic.opcode := by
  cases i <;> rfl

/-- The opcode field of a word is the opcode of the command it decodes to. -/
theorem opField_of_decode {cw : CommandWord} {i : Instr} (h : decode cw = .ok i) : opField cw = opcodeOf i := by
  unfold decode decodeFields at h
  split at h
  case h_9 => cases h
  all_goals
    cases h
    exact BitVec.eq_of_toNat_eq ‹_›

/-- An assigned opcode decodes to a command of its row, with some operands. -/
theorem exists_decodeFields_opcodeOf (j : Instr) (a b : Word) :
    ∃ i, decodeFields (opcodeOf j) a b = .ok i ∧ i.mnemonic = j.mnemonic := by
  cases j <;> exact ⟨_, rfl, rfl⟩

/-- A word decodes to a command of a row exactly when its opcode field is the row's opcode. -/
theorem exists_decode_iff (cw : CommandWord) (j : Instr) :
    (∃ i, decode cw = .ok i ∧ i.mnemonic = j.mnemonic) ↔ opField cw = opcodeOf j := by
  constructor
  · rintro ⟨i, hdecode, hm⟩
    rw [opField_of_decode hdecode, opcodeOf_eq_opcode, hm, opcodeOf_eq_opcode]
  · intro hop
    rw [decode_of_opField hop]
    exact exists_decodeFields_opcodeOf j ..

/-- The mask of every row: all four bits of the opcode. -/
def opcodeMask : CommandWord := packCommand 0xf 0 0

/-- The row of a command in the opcode table: its opcode over zero operand fields, and the mask. -/
def rowOf (i : Instr) : OpcodeRow := ⟨i.mnemonic, packCommand (opcodeOf i) 0 0, opcodeMask⟩

theorem opcodeTable_eq_map_rowOf :
    opcodeTable = [.seed 0 0, .seedd, .seede, .next64, .next32, .jump, .rds0, .rds1].map rowOf := rfl

theorem packCommand_and (op op' : BitVec 4) (a b a' b' : Word) :
    packCommand op a b &&& packCommand op' a' b' = packCommand (op &&& op') (a &&& a') (b &&& b') :=
  calc packCommand op a b &&& packCommand op' a' b'
    _ = (op &&& op') ++ (a ++ b &&& a' ++ b') := BitVec.and_append
    _ = packCommand (op &&& op') (a &&& a') (b &&& b') := by rw [BitVec.and_append]; rfl

theorem and_opcodeMask (cw : CommandWord) : cw &&& opcodeMask = packCommand (opField cw) 0 0 :=
  calc cw &&& opcodeMask
    _ = packCommand (opField cw) (aField cw) (bField cw) &&& packCommand (BitVec.allOnes 4) 0 0 := by
      rw [packCommand_fields]; rfl
    _ = packCommand (opField cw) 0 0 := by
      rw [packCommand_and, BitVec.and_allOnes]; simp

/-- Under the mask a word matches a row exactly when its opcode field is the row's opcode. -/
theorem and_opcodeMask_eq_iff (cw : CommandWord) (op : BitVec 4) :
    cw &&& opcodeMask = packCommand op 0 0 ↔ opField cw = op := by
  rw [and_opcodeMask]
  exact ⟨fun h => by simpa using congrArg opField h, fun h => by rw [h]⟩

/-- Settles O4: the mask keeps the opcode field alone, and that field decides the row. -/
theorem opcodeTableSelectsCommand : Obligations.OpcodeTableSelectsCommand := by
  refine ⟨rfl, fun row hrow => ?_⟩
  rw [opcodeTable_eq_map_rowOf, List.mem_map] at hrow
  obtain ⟨j, _, rfl⟩ := hrow
  exact ⟨toNat_packCommand 0xf 0 0, fun cw => (and_opcodeMask_eq_iff cw _).trans (exists_decode_iff cw j).symm⟩

/-- Settles O6: each word is the packing of its fields, and the opcode map reads those. -/
theorem decodeReadsSpecWords : Obligations.DecodeReadsSpecWords :=
  ⟨decode_packCommand 0x1 0xaeecf86f7878dd75 0x01cd153642e72622,
    decode_packCommand 0x4 0xffffffffffffffff 0x123456789abcdef0,
    decode_packCommand 0x6 0 0, decode_packCommand 0x8 0 0, decode_packCommand 0x9 1 2⟩

end Sys2Proof

namespace Sys2Proof.Machine

/-! ## The response word (R74, R75) -/

theorem statusOfCode_statusCode (st : Status) : statusOfCode (statusCode st) = st := by
  cases st <;> rfl

theorem statusCode_statusOfCode : ∀ c : BitVec 2, statusCode (statusOfCode c) = c := by
  decide

theorem responseOfWord_responseWord (r : Response) : responseOfWord (responseWord r) = r := by
  rw [responseOfWord, responseWord, BitVec.extractLsb'_append_eq_left, BitVec.extractLsb'_append_eq_right,
    statusOfCode_statusCode]

theorem responseWord_responseOfWord (w : ResponseWord) : responseWord (responseOfWord w) = w := by
  rw [responseOfWord, responseWord, statusCode_statusOfCode]
  exact BitVec.extractLsb'_append_extractLsb'

/-- Settles O7: the status codes are a bijection with the two bits, and the word is the two fields side by side. -/
theorem responseWordLayout : Obligations.ResponseWordLayout :=
  ⟨fun st d => ⟨toNat_append_eq_add (statusCode st) d, responseOfWord_responseWord ⟨st, d⟩⟩,
    responseWord_responseOfWord, rfl, rfl, rfl, rfl⟩

/-! ## Unused operand fields (R72) -/

/-- Settles O3: decoding does not look at the operand fields, and a word acts through what it decodes to. -/
theorem unusedOperandFieldsIgnored : Obligations.UnusedOperandFieldsIgnored := by
  refine ⟨fun cw cw' hop hne => ?_, fun i => encode_unused_operands⟩
  have hdecode : decode cw = decode cw' := by
    rw [decode_of_opField hop, decode]
    exact decodeFields_ignores_operands (hop ▸ hne) ..
  exact ⟨hdecode, fun s => by rw [runWord, runWord, hdecode]⟩

/-! ## Reserved opcodes (R78, 60_exceptions.md R173) -/

theorem wordState_reserved {cw : CommandWord} (h : opField cw = 0x0 ∨ 0x9 ≤ opField cw) (s : State) :
    wordState cw s = raiseError .illegalCommand s :=
  wordState_error (decode_reserved h) s

/-- Settles O11: the accepted word is reserved, and raising `IllegalCommand` writes the response alone. -/
theorem reservedOpcodeRaisesIllegal : Obligations.ReservedOpcodeRaisesIllegal := by
  intro s cw rest hp hc hop
  rw [step_command hp hc, wordState_reserved hop, hp]
  rfl

end Sys2Proof.Machine

/-! SUPPORT. The assembler (30_encoding.md R81, R82): which lines it accepts, what the pseudo-instructions stand for, and
that it reads its own text of every command. -/

namespace Sys2Proof.Machine

/-! ## Source lines -/

theorem arityOk_iff (l : SourceLine) : l.arityOk = true ↔ l.operands.length = l.mnemonic.arity := by
  simp [SourceLine.arityOk]

theorem rangeOk_iff (l : SourceLine) : l.rangeOk = true ↔ ∀ n ∈ l.operands, n < 2 ^ 64 := by
  simp [SourceLine.rangeOk]

/-- A line with the right number of operands, all in range, stands for the commands of its mnemonic. -/
theorem assembleSource_of_ok {l : SourceLine} (ha : l.operands.length = l.mnemonic.arity)
    (hr : ∀ n ∈ l.operands, n < 2 ^ 64) :
    assembleSource l = .ok (expand l.mnemonic (operandWord l 0) (operandWord l 1)) := by
  rw [assembleSource, if_pos ((arityOk_iff l).mpr ha), if_pos ((rangeOk_iff l).mpr hr)]

/-- No other line assembles. -/
theorem ok_of_assembleSource {l : SourceLine} {is : List Instr} (h : assembleSource l = .ok is) :
    l.operands.length = l.mnemonic.arity ∧ ∀ n ∈ l.operands, n < 2 ^ 64 := by
  unfold assembleSource at h
  split at h
  case isTrue ha =>
    split at h
    case isTrue hr => exact ⟨(arityOk_iff l).mp ha, (rangeOk_iff l).mp hr⟩
    case isFalse => cases h
  case isFalse => cases h

/-- A line of a mnemonic with two operands, given as words. -/
theorem assembleSource_words {m : Mnemonic} (hm : m.arity = 2) (a b : Word) :
    assembleSource ⟨m, [a.toNat, b.toNat]⟩ = .ok (expand m a b) := by
  have hrange : ∀ n ∈ [a.toNat, b.toNat], n < 2 ^ 64 := by simp [a.isLt, b.isLt]
  rw [assembleSource_of_ok (l := ⟨m, [a.toNat, b.toNat]⟩) hm.symm hrange]
  simp [operandWord]

/-- Settles O59: `RESEED` and `NEW` pass their operands on to `SEED`; the other two have none. -/
theorem pseudoInstructions : Obligations.PseudoInstructions :=
  ⟨fun a b => ⟨assembleSource_words rfl a b, assembleSource_words rfl a b⟩, rfl, rfl⟩

/-! ## Literals -/

/-- A character that is neither a blank, nor a comma, nor the start of a comment. -/
abbrev IsPlain (c : Char) : Prop := isBlank c = false ∧ c ≠ ',' ∧ c ≠ ';'

/-- A hexadecimal digit is plain and has its value. -/
theorem hexChar_spec : ∀ d < 16, digitValue (hexChar d) = some d ∧ IsPlain (hexChar d) := by
  decide

theorem length_hexDigits (k n : Nat) : (hexDigits k n).length = k := by
  induction k with
  | zero => rfl
  | succ k ih => rw [hexDigits, List.length_cons, ih]

theorem isPlain_of_mem_hexDigits {k n : Nat} {c : Char} (hc : c ∈ hexDigits k n) : IsPlain c := by
  induction k with
  | zero => cases hc
  | succ k ih =>
    obtain rfl | hc := List.mem_cons.mp hc
    · exact (hexChar_spec _ (Nat.mod_lt _ (by decide))).2
    · exact ih hc

theorem digitsValue_hexChar {d : Nat} (hd : d < 16) (acc : Nat) (t : List Char) :
    digitsValue 16 acc (hexChar d :: t) = digitsValue 16 (acc * 16 + d) t := by
  simp only [digitsValue, (hexChar_spec d hd).1, if_pos hd]

/-- The low `k` hexadecimal digits of `n`, read after `acc`, shift `acc` by `k` digits. -/
theorem digitsValue_hexDigits (k acc n : Nat) :
    digitsValue 16 acc (hexDigits k n) = some (acc * 16 ^ k + n % 16 ^ k) := by
  induction k generalizing acc with
  | zero => simp [hexDigits, digitsValue, Nat.mod_one]
  | succ k ih =>
    rw [hexDigits, digitsValue_hexChar (Nat.mod_lt _ (by decide)), ih, Nat.mod_pow_succ]
    congr 1
    ring

/-- A word's text is read back as its number. -/
theorem literalValue_wordText (w : Word) : literalValue (wordText w) = some w.toNat :=
  calc literalValue (wordText w)
    _ = if (hexDigits 16 w.toNat).length ≤ 16 then digitsValue 16 0 (hexDigits 16 w.toNat) else none := rfl
    _ = some (0 * 16 ^ 16 + w.toNat % 16 ^ 16) := by
      rw [if_pos (length_hexDigits _ _).le, digitsValue_hexDigits]
    _ = some w.toNat := by rw [Nat.zero_mul, Nat.zero_add, Nat.mod_eq_of_lt (b := 16 ^ 16) w.isLt]

theorem isPlain_of_mem_wordText {w : Word} {c : Char} (hc : c ∈ wordText w) : IsPlain c := by
  obtain rfl | hc := List.mem_cons.mp hc
  · decide
  obtain rfl | hc := List.mem_cons.mp hc
  · decide
  exact isPlain_of_mem_hexDigits hc

/-! ## Blanks, comments, commas -/

theorem wordText_ne_nil (w : Word) : wordText w ≠ [] := List.cons_ne_nil _ _

/-- A text that does not start with a blank and ends with an operand has no blanks to trim. -/
theorem trimBlanks_of_suffix {c : Char} {t : List Char} {w : Word} (hc : isBlank c = false)
    (hw : wordText w <:+ c :: t) : trimBlanks (c :: t) = c :: t := by
  have hright : (c :: t).rdropWhile isBlank = c :: t := by
    rw [List.rdropWhile_eq_self_iff]
    intro _
    rw [← hw.getLast (wordText_ne_nil w), (isPlain_of_mem_wordText (List.getLast_mem _)).1]
    exact Bool.false_ne_true
  rw [trimBlanks, List.dropWhile_cons_of_neg (by simp [hc])]
  exact hright

/-- A blank in front is dropped. -/
theorem trimBlanks_space (t : List Char) : trimBlanks (' ' :: t) = trimBlanks t := rfl

theorem trimBlanks_space_wordText (w : Word) : trimBlanks (' ' :: wordText w) = wordText w :=
  trimBlanks_of_suffix rfl List.suffix_rfl

theorem splitCommas_of_no_comma {t : List Char} (h : ∀ c ∈ t, c ≠ ',') : splitCommas t = [t] := by
  induction t with
  | nil => rfl
  | cons c t ih =>
    rw [List.forall_mem_cons] at h
    simp [splitCommas, h.1, ih h.2]

theorem splitCommas_append_comma {u : List Char} (h : ∀ c ∈ u, c ≠ ',') (t : List Char) :
    splitCommas (u ++ ',' :: t) = u :: splitCommas t := by
  induction u with
  | nil => rfl
  | cons c u ih =>
    rw [List.forall_mem_cons] at h
    simp [splitCommas, h.1, ih h.2]

/-! ## The line of a command -/

/-- A line whose first word spells a mnemonic and whose rest is a list of literals is read as these. -/
theorem readLine_of_parts {text word rest : List Char} {m : Mnemonic} {ns : List Nat}
    (ht : trimBlanks (stripComment text) = word ++ rest)
    (hword : (word ++ rest).takeWhile (fun c => !isBlank c) = word) (hm : mnemonicOfText word = some m)
    (hrest : operandsOfText rest = some ns) : readLine text = .ok ⟨m, ns⟩ := by
  simp only [readLine, ht, hword, hm, List.drop_left, hrest]

/-- What follows the mnemonic in the line of `SEED a, b`. -/
def operandsText (a b : Word) : List Char := (' ' :: wordText a) ++ ',' :: ' ' :: wordText b

theorem instrText_seed (a b : Word) : instrText (.seed a b) = mnemonicText .seed ++ operandsText a b := rfl

theorem ne_comma_of_mem_space_wordText {w : Word} : ∀ c ∈ ' ' :: wordText w, c ≠ ',' :=
  List.forall_mem_cons.mpr ⟨by decide, fun _ hc => (isPlain_of_mem_wordText hc).2.1⟩

theorem wordText_suffix_operands (a b : Word) : wordText b <:+ wordText a ++ ',' :: ' ' :: wordText b :=
  (List.suffix_append [',', ' '] (wordText b)).trans (List.suffix_append ..)

theorem operandsOfText_operandsText (a b : Word) :
    operandsOfText (operandsText a b) = some [a.toNat, b.toNat] := by
  have htrim : trimBlanks (operandsText a b) = wordText a ++ ',' :: ' ' :: wordText b := by
    rw [operandsText, List.cons_append, trimBlanks_space]
    exact trimBlanks_of_suffix rfl (wordText_suffix_operands a b)
  have hsplit : splitCommas (operandsText a b) = [' ' :: wordText a, ' ' :: wordText b] := by
    rw [operandsText, splitCommas_append_comma ne_comma_of_mem_space_wordText,
      splitCommas_of_no_comma ne_comma_of_mem_space_wordText]
  rw [operandsOfText, htrim, if_neg (by simp [wordText]), hsplit]
  simp only [literalValues, trimBlanks_space_wordText, literalValue_wordText]

theorem ne_semicolon_of_mem_instrText_seed (a b : Word) : ∀ c ∈ instrText (.seed a b), c ≠ ';' := by
  have hword (w : Word) : ∀ c ∈ wordText w, c ≠ ';' := fun _ hc => (isPlain_of_mem_wordText hc).2.2
  rw [instrText_seed, operandsText]
  simp only [List.forall_mem_append, List.forall_mem_cons]
  exact ⟨by simp [mnemonicText], ⟨by decide, hword a⟩, by decide, by decide, hword b⟩

theorem trimBlanks_stripComment_instrText_seed (a b : Word) :
    trimBlanks (stripComment (instrText (.seed a b))) = mnemonicText .seed ++ operandsText a b := by
  have hstrip : stripComment (instrText (.seed a b)) = instrText (.seed a b) := by
    rw [stripComment, List.takeWhile_eq_self_iff]
    intro c hc
    simpa using ne_semicolon_of_mem_instrText_seed a b c hc
  have hsuffix : wordText b <:+ mnemonicText .seed ++ operandsText a b :=
    (wordText_suffix_operands a b).trans (List.suffix_append (mnemonicText .seed ++ [' ']) _)
  rw [hstrip]
  exact trimBlanks_of_suffix rfl hsuffix

theorem readLine_instrText_seed (a b : Word) :
    readLine (instrText (.seed a b)) = .ok ⟨.seed, [a.toNat, b.toNat]⟩ :=
  readLine_of_parts (trimBlanks_stripComment_instrText_seed a b) rfl rfl (operandsOfText_operandsText a b)

theorem assembleLine_instrText (i : Instr) : assembleLine (instrText i) = .ok [i] := by
  cases i with
  | seed a b =>
    rw [assembleLine, readLine_instrText_seed]
    exact assembleSource_words rfl a b
  | seedd => rfl
  | seede => rfl
  | next64 => rfl
  | next32 => rfl
  | jump => rfl
  | rds0 => rfl
  | rds1 => rfl

/-- Settles O60: the two checks of a line are the two conditions, and the text of `SEED` is read part by part; the other
texts are fixed. -/
theorem assemblerReadsEveryCommand : Obligations.AssemblerReadsEveryCommand :=
  ⟨fun _ => ⟨fun ⟨_, h⟩ => ok_of_assembleSource h, fun ⟨ha, hr⟩ => ⟨_, assembleSource_of_ok ha hr⟩⟩,
    assembleLine_instrText⟩

end Sys2Proof.Machine

/-! SUPPORT. The statements of 40_seeding.md: the three seeding commands, the redraw loop and its hang, the zero stream,
and seeding that forgets the state before it. -/

namespace Sys2Proof.Machine

/-! ## `SEED` and `SEEDD` -/

/-- Settles O14: the decoder's row for `SEED`, and the state `SEED` leads to field by field. -/
theorem seedCommand : Obligations.SeedCommand := ⟨fun _ => decode_of_opField, fun _ _ _ => rfl⟩

/-- Settles O17: the decoder's row for `SEEDD`; the default pair is non-zero, and seeding with it is `SEED` of it. -/
theorem seeddCommand : Obligations.SeeddCommand :=
  ⟨fun _ => decode_of_opField, defaultSeed_ne_zero, fun _ => ⟨rfl, rfl⟩⟩

/-! ## The redraw loop on a list of answers (R104, R107) -/

/-- The loop waits exactly when every answer was `Ok(0, 0)`. -/
theorem drawLoop_eq_waiting_iff (as : List DrawAnswer) : drawLoop as = .waiting ↔ ¬ EntropyAnswers as := by
  obtain ⟨n, ⟨w0, w1, rest, rfl, hw, hl⟩ | ⟨rest, rfl, hl⟩ | ⟨rfl, hl⟩⟩ := drawLoop_cases as
  · have hmem : EntropyAnswers (List.replicate n (.ok 0 0) ++ .ok w0 w1 :: rest) :=
      ⟨.ok w0 w1, by simp, by simpa using hw⟩
    exact iff_of_false (by rw [hl]; exact nofun) (not_not_intro hmem)
  · have hmem : EntropyAnswers (List.replicate n (.ok 0 0) ++ .err :: rest) := ⟨.err, by simp, nofun⟩
    exact iff_of_false (by rw [hl]; exact nofun) (not_not_intro hmem)
  · refine iff_of_true hl ?_
    rintro ⟨a, ha, hne⟩
    exact hne (List.eq_of_mem_replicate ha)

/-- Answers on which the loop waits do not show in what it comes to on later ones (00_scope.md R11). -/
theorem drawLoop_append_of_waiting {as : List DrawAnswer} (h : drawLoop as = .waiting) (more : List DrawAnswer) :
    drawLoop (as ++ more) = drawLoop more := by
  obtain ⟨n, ⟨w0, w1, rest, _, _, hl⟩ | ⟨rest, _, hl⟩ | ⟨rfl, _⟩⟩ := drawLoop_cases as
  · exact absurd (h.symm.trans hl) nofun
  · exact absurd (h.symm.trans hl) nofun
  · exact drawLoop_replicate_zero n more

/-- A failed loop on an attached provider has spent the `Err` that ended it, and the zero draws before it. -/
theorem answers_of_drawLoop_failed {as rest : List DrawAnswer} (h : drawLoop as = .failed rest) :
    ∃ n, as = (List.replicate n (.ok 0 0) ++ [.err]) ++ rest := by
  obtain ⟨n, ⟨w0, w1, r, _, _, hl⟩ | ⟨r, rfl, hl⟩ | ⟨_, hl⟩⟩ := drawLoop_cases as
  · exact absurd (h.symm.trans hl) nofun
  · obtain rfl := DrawResult.failed.inj (h.symm.trans hl)
    exact ⟨n, by simp⟩
  · exact absurd (h.symm.trans hl) nofun

theorem drawSeed_eq_waiting_iff (s : State) :
    drawSeed s.hasEntropy s.answers = .waiting ↔ s.hasEntropy = true ∧ ¬ EntropyAnswers s.answers := by
  cases he : s.hasEntropy with
  | false => exact iff_of_false nofun fun h => nomatch h.1
  | true => exact (drawLoop_eq_waiting_iff s.answers).trans (and_iff_right rfl).symm

/-! ## `SEEDE` (R104 to R106) -/

/-- Settles O18: the zero draws fall away, and the next answer, or the missing provider, decides. -/
theorem seedeCommand : Obligations.SeedeCommand := by
  refine ⟨fun _ => decode_of_opField, ?drawn, ?failed, ?absent⟩
  case drawn =>
    intro s n w0 w1 rest he hs hw
    rw [exec_eq, execState_seede, drawSeed_attached he, hs, drawLoop_replicate_zero, drawLoop_nonzero hw]
    rfl
  case failed =>
    intro s n rest he hs
    rw [exec_eq, execState_seede, drawSeed_attached he, hs, drawLoop_replicate_zero]
    rfl
  case absent =>
    intro s he
    rw [exec_eq, execState_seede, drawSeed_absent he]
    rfl

/-- Settles O19: only a failed draw or a missing provider answers `ERR_ENTROPY`, and it writes no state word. -/
theorem failedSeedeKeepsState : Obligations.FailedSeedeKeepsState := by
  intro s t r hexec hr hst
  cases effect_of_exec hexec with
  | unseeded hi _ => cases hi
  | computed hi _ => cases hi
  | drawn _ _ => cases hr; cases hst
  | waiting _ _ => cases hr
  | failed hd =>
    cases hr
    refine ⟨rfl, rfl, rfl, rfl, ?_⟩
    cases he : s.hasEntropy with
    | false =>
      rw [drawSeed_absent he] at hd
      exact ⟨[], DrawResult.failed.inj hd, nofun⟩
    | true =>
      rw [drawSeed_attached he] at hd
      obtain ⟨n, hn⟩ := answers_of_drawLoop_failed hd
      exact ⟨_, hn, fun _ => by simp⟩

/-- Settles O20: only a non-zero draw answers `OK`, and `Step` sends no non-zero pair to `(0, 0)`. -/
theorem seedeNeverLeavesZero : Obligations.SeedeNeverLeavesZero := by
  intro s t hexec hr hz
  cases effect_of_exec hexec with
  | unseeded hi _ => cases hi
  | computed hi _ => cases hi
  | drawn _ hw => exact hw (eq_zero_of_xoroStep_eq_zero hz)
  | failed _ => cases hr
  | waiting _ _ => cases hr

/-! ## The hang and its end (R107) -/

/-- `SEEDE` has responded unless its draws wait. -/
theorem seedeOn_responds_iff (r : DrawResult) (s : State) :
    ((∃ q, (seedeOn r s).rsp = some q) ∧ (seedeOn r s).drawPending = false) ↔ r ≠ .waiting := by
  cases r with
  | drawn w0 w1 rest => exact iff_of_true ⟨⟨_, rfl⟩, rfl⟩ nofun
  | failed rest => exact iff_of_true ⟨⟨_, rfl⟩, rfl⟩ nofun
  | waiting => exact iff_of_false (fun h => nomatch h.2) (absurd rfl)

/-- Settles O22: `SEEDE` responds unless its draws wait, and they wait on an attached provider without an answer. -/
theorem seedeCompletesIffAnswered : Obligations.SeedeCompletesIffAnswered := by
  intro s
  refine ⟨_, exec_eq .seede s, ?_⟩
  rw [execState_seede, seedeOn_responds_iff, ne_eq, drawSeed_eq_waiting_iff, not_and_or, not_not, Bool.not_eq_true]

theorem execState_seede_unanswered {s : State} (he : s.hasEntropy = true) (ha : ¬ EntropyAnswers s.answers) :
    execState .seede s = waitForDraw s := by
  rw [execState_seede, (drawSeed_eq_waiting_iff s).mpr ⟨he, ha⟩]
  rfl

/-- A waiting `SEEDE` that gets no answer repeats its state. -/
theorem stepState_waitForDraw {s : State} (he : s.hasEntropy = true) :
    stepState (waitForDraw s) = waitForDraw s := by
  rw [stepState_inFlight rfl, execState_seede_unanswered (s := waitForDraw s) he (by simp)]
  rfl

/-- Settles O21: `SEEDE` leads to the waiting state, which steps repeat. -/
theorem unansweredSeedeHangs : Obligations.UnansweredSeedeHangs := by
  intro s he ha
  refine ⟨waitForDraw s, exec_next_iff.mpr (execState_seede_unanswered he ha), rfl, rfl, fun n => ?_⟩
  refine ⟨waitForDraw s, ?_, rfl, rfl, rfl, rfl, rfl, rfl⟩
  rw [run_eq, Function.iterate_fixed (stepState_waitForDraw he)]

theorem foldl_provideAnswer (more : List DrawAnswer) (s : State) :
    more.foldl (fun u a => provideAnswer a u) s = s.setAnswers (s.answers ++ more) := by
  induction more generalizing s with
  | nil => rw [List.foldl_nil, List.append_nil]; rfl
  | cons a more ih => rw [List.foldl_cons, ih, provideAnswer_answers, List.append_assoc]; rfl

/-- What `SEEDE` leads to does not show whether it waited before. -/
theorem seedeOn_waitForDraw (r : DrawResult) (s : State) (as bs : List DrawAnswer) :
    seedeOn r ((waitForDraw s).setAnswers as) = seedeOn r (s.setAnswers bs) := by
  cases r <;> rfl

/-- Settles O23: the step goes on with the loop on the later answers, and the earlier ones, all `Ok(0, 0)`, would have
fallen away. -/
theorem lateAnswersResumeSeede : Obligations.LateAnswersResumeSeede := by
  intro s more he ha
  refine ⟨waitForDraw s, exec_next_iff.mpr (execState_seede_unanswered he ha), ?_⟩
  have hloop : drawLoop (s.answers ++ more) = drawLoop more :=
    drawLoop_append_of_waiting ((drawLoop_eq_waiting_iff _).mpr ha) more
  rw [foldl_provideAnswer, foldl_provideAnswer, step_inFlight rfl, exec_eq, execState_seede, execState_seede,
    drawSeed_attached (s := (waitForDraw s).setAnswers _) he, drawSeed_attached (s := s.setAnswers (s.answers ++ more)) he]
  simp only [setAnswers_answers, waitForDraw_answers, List.nil_append, hloop]
  rw [seedeOn_waitForDraw]

/-! ## The zero stream (R101) -/

/-- A seeded idle core at `(0, 0)`. -/
structure State.ZeroSeeded (s : State) : Prop where
  valid : s.valid = true
  zero : s.degenerate
  idle : s.drawPending = false

theorem pairAfter_zero (i : Instr) : pairAfter i (0, 0) = (0, 0) := by
  cases i with
  | next64 => exact xoroStep_zero
  | next32 => exact xoroStep_zero
  | jump => rw [pairAfter, xoroJump_eq_scanPair, (scanPair_linear _ _).map_zero]
  | seed a b => rfl
  | seedd => rfl
  | seede => rfl
  | rds0 => rfl
  | rds1 => rfl

theorem dataAfter_zero (i : Instr) : dataAfter i (0, 0) = 0 := by cases i <;> rfl

/-- At `(0, 0)` a command that does not seed is answered `{OK, 0}`, and the pair stays. -/
theorem State.ZeroSeeded.step {s : State} (h : s.ZeroSeeded) {i : Instr} (hi : i.isSeeding = false)
    {rest : List CommandWord} (hc : s.commands = encode i :: rest) :
    stepState s = respond .ok 0 ((accept rest s).setPair (0, 0)) := by
  have hneeds : i.needsSeeded = true := by simpa [isSeeding_eq_not_needsSeeded] using hi
  have hpair : (accept rest s).pair = (0, 0) := h.zero
  rw [stepState_command h.idle hc, wordState_ok (decode_encode i), execState_seeded hneeds (s := accept rest s) h.valid, hpair,
    pairAfter_zero, dataAfter_zero]

theorem State.ZeroSeeded.iterate {is : List Instr} (his : ∀ i ∈ is, i.isSeeding = false) {s : State}
    (h : s.ZeroSeeded) {rest : List CommandWord} (hc : s.commands = is.map encode ++ rest) :
    (stepState^[is.length] s).ZeroSeeded ∧ ∀ k < is.length, (stepState^[k + 1] s).rsp = some ⟨.ok, 0⟩ := by
  induction is generalizing s with
  | nil => exact ⟨h, nofun⟩
  | cons i is ih =>
    obtain ⟨hi, his⟩ := List.forall_mem_cons.mp his
    have hstep := h.step hi hc
    have hnext : (stepState s).ZeroSeeded := hstep ▸ ⟨h.valid, rfl, rfl⟩
    obtain ⟨hend, hrsp⟩ := ih his hnext (by rw [hstep]; rfl)
    refine ⟨hend, fun k hk => ?_⟩
    cases k with
    | zero => exact congrArg State.rsp hstep
    | succ k => exact hrsp k (Nat.lt_of_succ_lt_succ hk)

/-- Settles O15: by induction on the commands that follow, each of which finds a seeded idle core at `(0, 0)`. -/
theorem zeroSeedGivesZeroStream : Obligations.ZeroSeedGivesZeroStream := by
  refine ⟨fun s => ⟨_, exec_eq (.seed 0 0) s, rfl, rfl, rfl⟩, ?_⟩
  intro is s rest his hv hz hp hc
  obtain ⟨hend, hrsp⟩ := State.ZeroSeeded.iterate his ⟨hv, hz, hp⟩ hc
  refine ⟨_, run_eq is.length s, hend.zero, hend.valid, fun k hk => ?_⟩
  rw [responseAt_eq, hrsp k hk]
  rfl

/-! ## Seeding forgets the state before it (R108) -/

/-- `SEED` and `SEEDD` seed with a pair that the command alone fixes. -/
theorem execState_eq_seedWith {i : Instr} (hi : (∃ a b, i = .seed a b) ∨ i = .seedd) :
    ∃ p, ∀ s, execState i s = respond .ok dataNone (seedWith p s) := by
  obtain ⟨a, b, rfl⟩ | rfl := hi
  · exact ⟨(a, b), fun _ => rfl⟩
  · exact ⟨Config.defaultSeed, fun _ => rfl⟩

/-- Another index and the same response stay so through every number of steps. -/
theorem stepState_iterate_withIndex (s : State) (n k : Nat) :
    ∃ m, stepState^[k] (s.withPast s.rsp n) = (stepState^[k] s).withPast (stepState^[k] s).rsp m := by
  induction k with
  | zero => exact ⟨n, rfl⟩
  | succ k ih =>
    obtain ⟨m, hm⟩ := ih
    rw [Function.iterate_succ_apply', Function.iterate_succ_apply' stepState k s, hm]
    exact stepState_withPast (.inr rfl) m

/-- Settles O16: after the seeding step the core is the one from reset but for the host's index, which no response
shows. -/
theorem reseedForgetsPriorState : Obligations.ReseedForgetsPriorState := by
  intro s i rest hi hp hc n
  obtain ⟨p, hseed⟩ := execState_eq_seedWith hi
  have hstep (u : State) (hu : u.drawPending = false) (huc : u.commands = encode i :: rest) :
      stepState u = respond .ok dataNone (seedWith p (accept rest u)) := by
    rw [stepState_command hu huc, wordState_ok (decode_encode i), hseed]
  have hreset : stepState { State.reset with
        commands := s.commands, hasEntropy := s.hasEntropy, answers := s.answers } =
      (stepState s).withPast (stepState s).rsp 1 := by
    rw [hstep s hp hc]
    exact hstep _ rfl hc
  obtain ⟨m, hm⟩ := stepState_iterate_withIndex (stepState s) 1 n
  rw [responseAt_eq, responseAt_eq, Function.iterate_succ_apply, Function.iterate_succ_apply, hreset, hm]
  rfl

end Sys2Proof.Machine

/-! SUPPORT. The primitive operations as numbers and bit by bit (41_output.md R127), and `Step` through them (R120, R126,
R128). -/

namespace Sys2Proof.Machine

/-! ## The primitives (R127) -/

theorem toNat_add64 (a b : Word) : (add64 a b).toNat = (a.toNat + b.toNat) % 2 ^ 64 := BitVec.toNat_add a b

theorem toNat_shl64 (v : Word) (k : Nat) : (shl64 v k).toNat = v.toNat * 2 ^ k % 2 ^ 64 := by
  rw [shl64, BitVec.toNat_shiftLeft, Nat.shiftLeft_eq]

/-- The product modulo `2^64` and the quotient share no bit, so their union is their sum. -/
theorem toNat_rotl64 (v : Word) {k : Nat} (hk : k < 64) :
    (rotl64 v k).toNat = v.toNat * 2 ^ k % 2 ^ 64 + v.toNat / 2 ^ (64 - k) := by
  have hpow : 2 ^ 64 = 2 ^ (64 - k) * 2 ^ k := by rw [← Nat.pow_add, Nat.sub_add_cancel hk.le]
  have hhigh : v.toNat * 2 ^ k % 2 ^ 64 = (v.toNat % 2 ^ (64 - k)) <<< k := by
    rw [hpow, Nat.mul_mod_mul_right, Nat.shiftLeft_eq]
  have hlow : v.toNat / 2 ^ (64 - k) < 2 ^ k := Nat.div_lt_of_lt_mul (hpow ▸ v.isLt)
  rw [rotl64, BitVec.toNat_rotateLeft, Nat.mod_eq_of_lt hk, Nat.shiftLeft_eq, Nat.shiftRight_eq_div_pow, hhigh,
    Nat.shiftLeft_add_eq_or_of_lt hlow]

/-- Bit `i` of a rotation is the bit that lies `64 - k` above it, going round at 64. -/
theorem getLsbD_rotl64 (v : Word) {k i : Nat} (hk : k < 64) (hi : i < 64) :
    (rotl64 v k).getLsbD i = v.getLsbD ((i + (64 - k)) % 64) := by
  rw [rotl64, BitVec.getLsbD_rotateLeft_of_le hk]
  by_cases hlow : i < k
  · have hindex : (i + (64 - k)) % 64 = 64 - k + i := by omega
    simp [hlow, hindex]
  · have hindex : (i + (64 - k)) % 64 = i - k := by omega
    simp [hlow, hi, hindex]

theorem getLsbD_shl64 (v : Word) (k : Nat) {i : Nat} (hi : i < 64) :
    (shl64 v k).getLsbD i = if k ≤ i then v.getLsbD (i - k) else false := by
  rw [shl64, BitVec.getLsbD_shiftLeft]
  by_cases hk : k ≤ i
  · simp [hi, hk]
  · simp [hk]

theorem toNat_trunc32 (v : Word) : (trunc32 v).toNat = v.toNat % 2 ^ 32 := BitVec.extractLsb'_toNat 0 32 v

theorem toNat_zext64 (v : BitVec 32) : (zext64 v).toNat = v.toNat :=
  BitVec.toNat_setWidth_of_le (by decide)

theorem toNat_zext64_trunc32 (v : Word) : (zext64 (trunc32 v)).toNat = v.toNat % 2 ^ 32 :=
  (toNat_zext64 _).trans (toNat_trunc32 v)

/-- The redraw loop never ends on `(0, 0)`. -/
theorem ne_zero_of_drawLoop_drawn {as rest : List DrawAnswer} {w0 w1 : Word} (h : drawLoop as = .drawn w0 w1 rest) :
    (w0, w1) ≠ (0, 0) := by
  obtain ⟨n, ⟨v0, v1, r, _, hv, hl⟩ | ⟨r, _, hl⟩ | ⟨_, hl⟩⟩ := drawLoop_cases as
  · obtain ⟨rfl, rfl, _⟩ := DrawResult.drawn.inj (h.symm.trans hl)
    exact hv
  · exact absurd (h.symm.trans hl) nofun
  · exact absurd (h.symm.trans hl) nofun

/-- Settles O29: the lemma of each operation. -/
theorem arithmeticLaws : Obligations.ArithmeticLaws := by
  refine ⟨toNat_add64, fun a b i => BitVec.getLsbD_xor, ?rotl, fun v => toNat_shl64 v 14,
    fun v => ⟨toNat_trunc32 v, toNat_zext64_trunc32 v⟩, fun w0 w1 rest => ⟨ne_zero_of_drawLoop_drawn, ?redraw⟩⟩
  case rotl =>
    intro v k i hk hi
    have hback : ((i + k) % 64 + (64 - k)) % 64 = i := by omega
    rw [getLsbD_rotl64 v (by omega) (Nat.mod_lt _ (by decide)), hback]
  case redraw => exact fun hw => drawLoop_nonzero hw rest

/-! ## `Step` as numbers and bit by bit (R120, R128) -/

theorem xoroStep_fst (p0 p1 : Word) :
    (xoroStep (p0, p1)).1 = rotl64 p0 55 ^^^ (p1 ^^^ p0) ^^^ shl64 (p1 ^^^ p0) 14 := rfl

theorem xoroStep_snd (p0 p1 : Word) : (xoroStep (p0, p1)).2 = rotl64 (p1 ^^^ p0) 36 := rfl

/-- Settles O24: the rotations and the shift as numbers. -/
theorem stepFunctionLaw : Obligations.StepFunctionLaw := by
  refine fun p0 p1 => ⟨?_, ?_⟩
  · rw [xoroStep_fst, BitVec.toNat_xor, BitVec.toNat_xor, toNat_rotl64 p0 (by decide), toNat_shl64, BitVec.toNat_xor]
  · rw [xoroStep_snd, toNat_rotl64 _ (by decide), BitVec.toNat_xor]

/-- Settles O25: rotating left by 55 and 36 is looking 9 and 28 bits up, and the shift has no bit below 14. -/
theorem stepBitByBit : Obligations.StepBitByBit := by
  intro p0 p1 i hi t
  have ht (k : Nat) : (p1 ^^^ p0).getLsbD k = t k := by rw [BitVec.getLsbD_xor, Bool.xor_comm]
  refine ⟨?_, ?_⟩
  · rw [xoroStep_fst, BitVec.getLsbD_xor, BitVec.getLsbD_xor, getLsbD_rotl64 p0 (by decide) hi, getLsbD_shl64 _ _ hi, ht,
      ht]
  · rw [xoroStep_snd, getLsbD_rotl64 _ (by decide) hi, ht]

/-! ## The fixed point and the inverse (R122, R126) -/

theorem xoroStep_iterate_zero (n : Nat) : xoroStep^[n] (0, 0) = (0, 0) := Function.iterate_fixed xoroStep_zero n

/-- Settles O27: `(0, 0)` is fixed, and no two pairs meet in any number of transitions. -/
theorem zeroStateIsFixedPoint : Obligations.ZeroStateIsFixedPoint :=
  ⟨xoroStep_zero, rfl, fun n => ⟨xoroStep_iterate_zero n, congrArg xoroOut (xoroStep_iterate_zero n)⟩,
    fun n _ h => xoroStep_injective.iterate n (h.trans (xoroStep_iterate_zero n).symm)⟩

/-- The inverse of `Step` as R126 writes it: `t` is rotated back out of the second word, and the first word with `t` and its
shift taken off is the rotated `p0`. -/
def xoroBack (n : Pair) : Pair :=
  let t := rotl64 n.2 28
  let p0 := rotl64 (n.1 ^^^ t ^^^ shl64 t 14) 9
  (p0, t ^^^ p0)

/-- Two words XORed on come off in the same order. -/
theorem xor_pair_cancel (a t u : Word) : a ^^^ t ^^^ u ^^^ t ^^^ u = a := by
  rw [BitVec.xor_assoc (a ^^^ t), BitVec.xor_comm u t, ← BitVec.xor_assoc, xor_cancel_right, xor_cancel_right]

theorem xoroBack_xoroStep (p : Pair) : xoroBack (xoroStep p) = p := by
  obtain ⟨p0, p1⟩ := p
  have ht : rotl64 (rotl64 (p1 ^^^ p0) 36) 28 = p1 ^^^ p0 := rotl64_rotl64 _ (by decide) (by decide)
  have hp0 : rotl64 (rotl64 p0 55) 9 = p0 := rotl64_rotl64 _ (by decide) (by decide)
  simp only [xoroBack, xoroStep_fst, xoroStep_snd, ht, xor_pair_cancel, hp0, xor_cancel_right]

theorem xoroStep_xoroBack (n : Pair) : xoroStep (xoroBack n) = n := by
  obtain ⟨n0, n1⟩ := n
  have hrot (v : Word) : rotl64 (rotl64 v 9) 55 = v := rotl64_rotl64 v (by decide) (by decide)
  have ht : rotl64 (rotl64 n1 28) 36 = n1 := rotl64_rotl64 n1 (by decide) (by decide)
  refine Prod.ext ?_ ?_
  · simp only [xoroBack, xoroStep_fst, hrot, xor_cancel_right, xor_pair_cancel]
  · simp only [xoroBack, xoroStep_snd, xor_cancel_right, ht]

theorem xoroStep_bijective : Function.Bijective xoroStep :=
  ⟨xoroStep_injective, fun n => ⟨xoroBack n, xoroStep_xoroBack n⟩⟩

theorem xoroOut_not_linear : ∃ p q : Pair, xoroOut (p.1 ^^^ q.1, p.2 ^^^ q.2) ≠ xoroOut p ^^^ xoroOut q :=
  ⟨(1, 0), (0, 1), by decide⟩

theorem xoroOut_not_injective : ¬ Function.Injective xoroOut := by
  intro h
  have hmerge : xoroOut (1, 0) = xoroOut (0, 1) := by decide
  exact absurd (h hmerge) (by decide)

/-- Settles O28: linearity, the inverse on both sides, and the witnesses `(1, 0)` and `(0, 1)` for `Out`. -/
theorem stepIsLinearBijection : Obligations.StepIsLinearBijection :=
  ⟨xoroStep_linear, xoroBack_xoroStep, xoroStep_xoroBack, fun _ => mt eq_zero_of_xoroStep_eq_zero, xoroStep_bijective,
    xoroOut_not_linear, xoroOut_not_injective⟩

end Sys2Proof.Machine

/-! SUPPORT. The output commands `NEXT64` and `NEXT32`, one at a time and in a list (41_output.md R121 to R125, R129,
R130). -/

namespace Sys2Proof.Machine

/-! ## One command -/

theorem exec_unseeded {i : Instr} (hi : i.needsSeeded = true) {s : State} (hv : s.valid = false) :
    exec i s = .next (raiseError .notSeeded s) :=
  exec_next_iff.mpr (execState_unseeded hi hv)

theorem exec_seeded {i : Instr} (hi : i.needsSeeded = true) {s : State} (hv : s.valid = true) :
    exec i s = .next (respond .ok (dataAfter i s.pair) (s.setPair (pairAfter i s.pair))) :=
  exec_next_iff.mpr (execState_seeded hi hv)

/-- Settles O30: the decoder's row, and `NEXT64` on an unseeded and on a seeded instance. -/
theorem next64Command : Obligations.Next64Command :=
  ⟨fun _ => decode_of_opField, fun _ => exec_unseeded rfl, fun _ => exec_seeded rfl⟩

/-- Settles O31: the decoder's row, and `NEXT32` on an unseeded and on a seeded instance. -/
theorem next32Command : Obligations.Next32Command :=
  ⟨fun _ => decode_of_opField, fun _ => exec_unseeded rfl,
    fun s hv => ⟨dataOut32 s.pair, toNat_zext64_trunc32 _, exec_seeded rfl hv⟩⟩

theorem toNat_xoroOut (p0 p1 : Word) : (xoroOut (p0, p1)).toNat = (p0.toNat + p1.toNat) % 2 ^ 64 := toNat_add64 p0 p1

/-- Settles O26: the sum of two words is below `2^65`, so dropping the carry takes off `2^64` at most once; `(1, 1)` tells
`Out` from the product and from the XOR. -/
theorem outWrapsModulo : Obligations.OutWrapsModulo := by
  refine ⟨fun p0 p1 => ⟨toNat_xoroOut p0 p1, fun hlt => ?small, fun hge => ?carry⟩, ⟨(1, 1), by decide⟩,
    ⟨(1, 1), by decide⟩, fun s hv => ⟨_, exec_seeded rfl hv, _, rfl, toNat_xoroOut s.s0 s.s1, rfl⟩⟩
  case small => rw [toNat_xoroOut, Nat.mod_eq_of_lt hlt]
  case carry =>
    have h0 := p0.isLt
    have h1 := p1.isLt
    rw [toNat_xoroOut]
    omega

/-! ## A list of output commands (R124, R129) -/

/-- A seeded idle instance whose next commands are `is`, each `NEXT64` or `NEXT32`, and then `rest`. -/
structure State.OutputReady (s : State) (is : List Instr) (rest : List CommandWord) : Prop where
  valid : s.valid = true
  idle : s.drawPending = false
  commands : s.commands = is.map encode ++ rest
  outputs : ∀ i ∈ is, i = .next64 ∨ i = .next32

/-- Both output commands make the same transition (R125). -/
theorem pairAfter_output {i : Instr} (hi : i = .next64 ∨ i = .next32) (p : Pair) : pairAfter i p = xoroStep p := by
  obtain rfl | rfl := hi <;> rfl

theorem needsSeeded_output {i : Instr} (hi : i = .next64 ∨ i = .next32) : i.needsSeeded = true := by
  obtain rfl | rfl := hi <;> rfl

namespace State.OutputReady

variable {s : State} {is : List Instr} {rest : List CommandWord}

/-- The first command answers from the pair before, makes one transition, and leaves the others. -/
theorem stepState_eq {i : Instr} (h : s.OutputReady (i :: is) rest) :
    stepState s =
      respond .ok (dataAfter i s.pair) ((accept (is.map encode ++ rest) s).setPair (xoroStep s.pair)) := by
  have hi := h.outputs i List.mem_cons_self
  rw [stepState_command h.idle h.commands, wordState_ok (decode_encode i),
    execState_seeded (needsSeeded_output hi) (s := accept _ s) h.valid, pairAfter_output hi]
  rfl

theorem ready_stepState {i : Instr} (h : s.OutputReady (i :: is) rest) : (stepState s).OutputReady is rest := by
  rw [h.stepState_eq]
  exact ⟨h.valid, rfl, rfl, fun j hj => h.outputs j (List.mem_cons_of_mem i hj)⟩

/-- After some of the commands the others are left, and every command done has made one transition. -/
theorem ready_iterate {todo : List Instr} (done : List Instr) (h : s.OutputReady (done ++ todo) rest) :
    (stepState^[done.length] s).OutputReady todo rest ∧
      (stepState^[done.length] s).pair = xoroStep^[done.length] s.pair := by
  induction done generalizing s with
  | nil => exact ⟨h, rfl⟩
  | cons i done ih =>
    have hpair : (stepState s).pair = xoroStep s.pair := congrArg State.pair h.stepState_eq
    rw [List.length_cons, Function.iterate_succ_apply, Function.iterate_succ_apply, ← hpair]
    exact ih h.ready_stepState

/-- Command `k` answers from the `k`-th pair and leaves the next one. -/
theorem rsp_and_pair {k : Nat} {i : Instr} (h : s.OutputReady is rest) (hk : is[k]? = some i) :
    (stepState^[k + 1] s).rsp = some ⟨.ok, dataAfter i (xoroStep^[k] s.pair)⟩ ∧
      (stepState^[k + 1] s).pair = xoroStep^[k + 1] s.pair := by
  obtain ⟨hlt, rfl⟩ := List.getElem?_eq_some_iff.mp hk
  have hsplit : is = is.take k ++ is[k] :: is.drop (k + 1) := by rw [List.cons_getElem_drop_succ, List.take_append_drop]
  rw [hsplit] at h
  obtain ⟨hready, hpair⟩ := h.ready_iterate
  rw [List.length_take_of_le hlt.le] at hready hpair
  rw [Function.iterate_succ_apply', Function.iterate_succ_apply' xoroStep, hready.stepState_eq, ← hpair]
  exact ⟨rfl, rfl⟩

theorem responseAt_eq {k : Nat} {i : Instr} (h : s.OutputReady is rest) (hk : is[k]? = some i) :
    responseAt k s = some (responseWord ⟨.ok, dataAfter i (xoroStep^[k] s.pair)⟩) := by
  rw [Machine.responseAt_eq, (h.rsp_and_pair hk).1]
  rfl

end State.OutputReady

/-- Settles O32: by induction on the commands, each of which makes the same transition. -/
theorem outputStream : Obligations.OutputStream := by
  intro is s rest his hv hp hc
  have h : s.OutputReady is rest := ⟨hv, hp, hc, his⟩
  refine ⟨?_, fun k => ⟨h.responseAt_eq, h.responseAt_eq⟩⟩
  obtain ⟨hend, hpair⟩ := State.OutputReady.ready_iterate (todo := []) is (by rwa [List.append_nil])
  exact ⟨_, run_eq is.length s, hpair, hend.valid, hend.commands⟩

/-- A seeded idle instance that is given one output command `n` times. -/
theorem outputReady_replicate {i : Instr} (hi : i = .next64 ∨ i = .next32) {s : State} {n : Nat}
    {rest : List CommandWord} (hv : s.valid = true) (hp : s.drawPending = false)
    (hc : s.commands = List.replicate n (encode i) ++ rest) : s.OutputReady (List.replicate n i) rest :=
  ⟨hv, hp, by rw [hc, List.map_replicate], fun _ hj => List.eq_of_mem_replicate hj ▸ hi⟩

/-- Settles O33: both instances go through the iterates of `Step`, and the data come from the same output. -/
theorem truncationLaw : Obligations.TruncationLaw := by
  intro n s t rest rest' hpair hvs hvt hps hpt hcs hct k hk
  have hget (i : Instr) : (List.replicate n i)[k]? = some i := by rw [List.getElem?_replicate, if_pos hk]
  obtain ⟨hrs, hqs⟩ := (outputReady_replicate (.inl rfl) hvs hps hcs).rsp_and_pair (hget .next64)
  obtain ⟨hrt, hqt⟩ := (outputReady_replicate (.inr rfl) hvt hpt hct).rsp_and_pair (hget .next32)
  rw [← hpair] at hrt hqt
  exact ⟨_, _, _, _, run_eq _ s, run_eq _ t, hqs.trans hqt.symm, hrs, hrt, toNat_zext64_trunc32 _⟩

end Sys2Proof.Machine

/-! SUPPORT. Sums of powers of `Step` over a set of bits (42_jump.md R145): what a jump scan computes, and polynomials over
GF(2) evaluated at `Step`, of which the jump polynomial is `x^(2^64)` (R142). -/

namespace Sys2Proof

theorem zero_pairXor (p : Pair) : pairXor (0, 0) p = p := by simp [pairXor]

theorem pairXor_assoc (p q r : Pair) : pairXor (pairXor p q) r = pairXor p (pairXor q r) := by
  simp [pairXor, BitVec.xor_assoc]

theorem pairXor_pairXor_pairXor_comm (p q r u : Pair) :
    pairXor (pairXor p q) (pairXor r u) = pairXor (pairXor p r) (pairXor q u) :=
  Prod.ext (Machine.xor_xor_xor_comm ..) (Machine.xor_xor_xor_comm ..)

/-- Adding the same pair twice changes nothing. -/
theorem pairXor_cancel_middle (p q r : Pair) : pairXor (pairXor p q) (pairXor q r) = pairXor p r := by
  rw [pairXor_assoc, ← pairXor_assoc q, pairXor_self, zero_pairXor]

end Sys2Proof

namespace Sys2Proof.Machine

/-! ## Sums of powers of `Step` -/

/-- The pair, if the bit is 1. -/
def selectPair (b : Bool) (p : Pair) : Pair := if b then p else (0, 0)

@[simp] theorem selectPair_true (p : Pair) : selectPair true p = p := rfl

@[simp] theorem selectPair_false (p : Pair) : selectPair false p = (0, 0) := rfl

theorem selectPair_linear (b : Bool) : PairLinear (selectPair b) := by
  cases b with
  | true => exact fun _ _ => rfl
  | false => exact fun _ _ => (pairXor_self _).symm

theorem xoroStep_selectPair (b : Bool) (p : Pair) : xoroStep (selectPair b p) = selectPair b (xoroStep p) := by
  cases b with
  | true => rfl
  | false => exact xoroStep_zero

theorem selectPair_xor (a b : Bool) (p : Pair) : selectPair (a ^^ b) p = pairXor (selectPair a p) (selectPair b p) := by
  cases a with
  | true => cases b with
    | true => exact (pairXor_self p).symm
    | false => exact (pairXor_zero p).symm
  | false => rw [Bool.false_xor, selectPair_false, zero_pairXor]

/-- The XOR of `Step^j(p)` over the `j < n` with bit `f j` set. -/
def stepSum : Nat → (Nat → Bool) → Pair → Pair
  | 0, _, _ => (0, 0)
  | n + 1, f, p => pairXor (stepSum n f p) (selectPair (f n) (xoroStep^[n] p))

theorem stepSum_congr {n : Nat} {f g : Nat → Bool} (h : ∀ i, i < n → f i = g i) (p : Pair) :
    stepSum n f p = stepSum n g p := by
  induction n with
  | zero => rfl
  | succ n ih => rw [stepSum, stepSum, ih fun i hi => h i (by omega), h n (by omega)]

theorem stepSum_linear (n : Nat) (f : Nat → Bool) : PairLinear (stepSum n f) := by
  intro p q
  induction n with
  | zero => exact (pairXor_self _).symm
  | succ n ih =>
    simp only [stepSum]
    rw [ih, xoroStep_linear.iterate n, selectPair_linear, pairXor_pairXor_pairXor_comm]

theorem stepSum_xoroStep (n : Nat) (f : Nat → Bool) (p : Pair) :
    stepSum n f (xoroStep p) = xoroStep (stepSum n f p) := by
  induction n with
  | zero => exact xoroStep_zero.symm
  | succ n ih =>
    simp only [stepSum]
    rw [ih, xoroStep_linear, xoroStep_selectPair, ← Function.iterate_succ_apply, Function.iterate_succ_apply']

theorem stepSum_false (n : Nat) (p : Pair) : stepSum n (fun _ => false) p = (0, 0) := by
  induction n with
  | zero => rfl
  | succ n ih => rw [stepSum, ih, selectPair_false, pairXor_zero]

theorem stepSum_xor (n : Nat) (f g : Nat → Bool) (p : Pair) :
    stepSum n (fun i => f i ^^ g i) p = pairXor (stepSum n f p) (stepSum n g p) := by
  induction n with
  | zero => exact (pairXor_self _).symm
  | succ n ih => rw [stepSum, stepSum, stepSum, ih, selectPair_xor, pairXor_pairXor_pairXor_comm]

theorem stepSum_add (n m : Nat) (f : Nat → Bool) (p : Pair) :
    stepSum (n + m) f p = pairXor (stepSum n f p) (stepSum m (fun i => f (n + i)) (xoroStep^[n] p)) := by
  induction m with
  | zero => exact (pairXor_zero _).symm
  | succ m ih =>
    rw [← Nat.add_assoc, stepSum, stepSum, ih, pairXor_assoc, ← Function.iterate_add_apply, Nat.add_comm m n]

/-- Bit 0 apart: the others are the same sum one transition on. -/
theorem stepSum_succ_bot (n : Nat) (f : Nat → Bool) (p : Pair) :
    stepSum (n + 1) f p = pairXor (selectPair (f 0) p) (xoroStep (stepSum n (fun i => f (i + 1)) p)) := by
  have h := stepSum_add 1 n f p
  rw [Nat.add_comm 1 n, Function.iterate_one, stepSum_xoroStep] at h
  simpa only [stepSum, zero_pairXor, Function.iterate_zero_apply, Nat.add_comm 1] using h

/-- One transition shifts the bits up; the top one comes out as a higher power. -/
theorem xoroStep_stepSum {n : Nat} {f g : Nat → Bool} (h0 : g 0 = false) (h : ∀ i, i < n → g (i + 1) = f i)
    (p : Pair) :
    xoroStep (stepSum (n + 1) f p) = pairXor (stepSum (n + 1) g p) (selectPair (f n) (xoroStep^[n + 1] p)) := by
  rw [stepSum, xoroStep_linear, xoroStep_selectPair, ← Function.iterate_succ_apply' xoroStep, stepSum_succ_bot n g, h0,
    stepSum_congr h, selectPair_false, zero_pairXor]

/-- The sum in the form of R145, as one loop over the set bits. -/
theorem foldl_filter_range_eq_stepSum (n : Nat) (f : Nat → Bool) (p : Pair) :
    ((List.range n).filter f).foldl (fun acc j => pairXor acc (xoroStep^[j] p)) (0, 0) = stepSum n f p := by
  induction n with
  | zero => rfl
  | succ n ih =>
    rw [List.range_succ, List.filter_append, List.foldl_append, ih, stepSum]
    cases hf : f n with
    | true => rw [List.filter_cons_of_pos hf]; rfl
    | false => rw [List.filter_cons_of_neg (by simp [hf]), selectPair_false, pairXor_zero]; rfl

/-! ## The jump scan is such a sum (R141, R145) -/

/-- A jump run from its accumulated pair and the pair being advanced. -/
def JumpRun.ofPairs (a q : Pair) : JumpRun := ⟨a.1, a.2, q.1, q.2⟩

theorem jumpIter_ofPairs (c : Word) (a q : Pair) (k : Nat) :
    jumpIter c (.ofPairs a q) k = .ofPairs (pairXor a (selectPair (c.getLsbD k) q)) (xoroStep q) := by
  cases hc : c.getLsbD k with
  | true => exact jumpIter_of_set hc _
  | false => rw [jumpIter_of_clear hc, selectPair_false, pairXor_zero]; rfl

theorem jumpIter_foldl_ofPairs (c : Word) (a q : Pair) (n : Nat) :
    (List.range n).foldl (jumpIter c) (.ofPairs a q) =
      .ofPairs (pairXor a (stepSum n c.getLsbD q)) (xoroStep^[n] q) := by
  induction n with
  | zero => rw [stepSum, pairXor_zero]; rfl
  | succ n ih =>
    rw [List.range_succ, List.foldl_append, ih, List.foldl_cons, List.foldl_nil, jumpIter_ofPairs, pairXor_assoc,
      ← Function.iterate_succ_apply' xoroStep]
    rfl

/-- Scanning two constants sums over the bits of the 128-bit word they make, and leaves the 128th pair. -/
theorem jumpScan_jumpScan_eq (c0 c1 : Word) (p : Pair) :
    jumpScan (jumpScan (jumpStart p) c0) c1 = .ofPairs (stepSum 128 (c1 ++ c0).getLsbD p) (xoroStep^[128] p) := by
  have hfirst : jumpScan (jumpStart p) c0 = .ofPairs (stepSum 64 c0.getLsbD p) (xoroStep^[64] p) := by
    rw [← zero_pairXor (stepSum 64 _ p)]
    exact jumpIter_foldl_ofPairs c0 (0, 0) p 64
  have hlow : stepSum 64 c0.getLsbD p = stepSum 64 (c1 ++ c0).getLsbD p :=
    stepSum_congr (fun i hi => by rw [BitVec.getLsbD_append, if_pos hi]) p
  have hhigh : c1.getLsbD = fun i => (c1 ++ c0).getLsbD (64 + i) := by
    funext i
    rw [BitVec.getLsbD_append, if_neg (by omega), Nat.add_sub_cancel_left]
  rw [hfirst, jumpScan, jumpIter_foldl_ofPairs, hlow, hhigh, ← stepSum_add 64 64, ← Function.iterate_add_apply]

theorem scanPair_eq_stepSum (c0 c1 : Word) (p : Pair) : scanPair c0 c1 p = stepSum 128 (c1 ++ c0).getLsbD p := by
  rw [scanPair, jumpScan_jumpScan_eq]
  rfl

/-! ## Polynomials over GF(2) at `Step` -/

/-- The polynomial with coefficient `c.getLsbD j` at `x^j`, evaluated at `Step`. -/
def polyAt (c : BitVec 128) : Pair → Pair := stepSum 128 c.getLsbD

/-- The jump polynomial `JUMP1 * 2^64 + JUMP0` (R145). -/
def jumpPoly : BitVec 128 := jumpConst1 ++ jumpConst0

theorem xoroJump_eq_polyAt (p : Pair) : xoroJump p = polyAt jumpPoly p :=
  (xoroJump_eq_scanPair p).trans (scanPair_eq_stepSum _ _ p)

theorem polyAt_xor (c d : BitVec 128) (p : Pair) : polyAt (c ^^^ d) p = pairXor (polyAt c p) (polyAt d p) := by
  rw [polyAt, polyAt, polyAt, ← stepSum_xor]
  exact stepSum_congr (fun i _ => BitVec.getLsbD_xor) p

theorem polyAt_zero (p : Pair) : polyAt 0 p = (0, 0) :=
  (stepSum_congr (fun _ _ => BitVec.getLsbD_zero) p).trans (stepSum_false 128 p)

theorem polyAt_one (p : Pair) : polyAt 1 p = p := by
  have hhigh (i : Nat) (_ : i < 127) : (1 : BitVec 128).getLsbD (i + 1) = false := by simp
  rw [polyAt, stepSum_succ_bot, stepSum_congr hhigh, stepSum_false, xoroStep_zero, pairXor_zero]
  rfl

theorem polyAt_ite (b : Bool) (c : BitVec 128) (p : Pair) :
    polyAt (if b then c else 0) p = selectPair b (polyAt c p) := by
  cases b with
  | true => rfl
  | false => exact polyAt_zero p

/-- `x^128` modulo the characteristic polynomial of `Step`, in two words as the jump constants are. Nothing rests on where
they come from, since `polyAt_stepPow128` checks them. -/
def stepPowConst0 : Word := 0x5fd66762f0e1c001

/-- The upper half, as `stepPowConst0`. -/
def stepPowConst1 : Word := 0x00653ced7f29f88a

def stepPow128 : BitVec 128 := stepPowConst1 ++ stepPowConst0

/-- The scan of the two constants ends with the pair it has advanced to in its accumulators. -/
def scanMeets (p : Pair) : Bool :=
  let r := jumpScan (jumpScan (jumpStart p) stepPowConst0) stepPowConst1
  r.a0 == r.q0 && r.a1 == r.q1

theorem scanPair_eq_of_scanMeets {p : Pair} (h : scanMeets p = true) :
    scanPair stepPowConst0 stepPowConst1 p = xoroStep^[128] p := by
  rw [scanPair_eq_stepSum]
  simp only [scanMeets, jumpScan_jumpScan_eq, Bool.and_eq_true, beq_iff_eq] at h
  obtain ⟨h0, h1⟩ := h
  exact Prod.ext h0 h1

/-- The one computation about `Step`, on the one-bit first words. -/
theorem scanMeets_fst : ∀ n, n < 64 → scanMeets (BitVec.twoPow 64 n, 0) = true := by
  decide +kernel

/-- The same on the one-bit second words. -/
theorem scanMeets_snd : ∀ n, n < 64 → scanMeets (0, BitVec.twoPow 64 n) = true := by
  decide +kernel

theorem polyAt_stepPow128 (p : Pair) : polyAt stepPow128 p = xoroStep^[128] p :=
  (scanPair_eq_stepSum _ _ p).symm.trans
    (pair_linear_ext (scanPair_linear _ _) (xoroStep_linear.iterate 128)
      (fun n hn => scanPair_eq_of_scanMeets (scanMeets_fst n hn))
      (fun n hn => scanPair_eq_of_scanMeets (scanMeets_snd n hn)) p)

/-- The polynomial times `x`, with `x^128` reduced. -/
def mulX (c : BitVec 128) : BitVec 128 := c <<< 1 ^^^ (if c.getLsbD 127 then stepPow128 else 0)

theorem polyAt_mulX (c : BitVec 128) (p : Pair) : polyAt (mulX c) p = xoroStep (polyAt c p) := by
  have h0 : (c <<< 1).getLsbD 0 = false := by simp
  have hshift : ∀ i, i < 127 → (c <<< 1).getLsbD (i + 1) = c.getLsbD i := by
    intro i hi
    rw [BitVec.getLsbD_shiftLeft, Nat.add_sub_cancel]
    simp [show i + 1 < 128 by omega]
  rw [mulX, polyAt_xor, polyAt_ite, polyAt_stepPow128]
  exact (xoroStep_stepSum h0 hshift p).symm

/-- The square of the polynomial with the `n` lowest coefficients of `c`, reduced, by Horner's rule: squaring over GF(2)
doubles the exponents. -/
def squareLow : Nat → BitVec 128 → BitVec 128
  | 0, _ => 0
  | n + 1, c => (if c.getLsbD 0 then (1 : BitVec 128) else 0) ^^^ mulX (mulX (squareLow n (c >>> 1)))

/-- The square of a sum with one summand 0 or 1: the mixed terms cancel. -/
theorem square_selectPair_add {g : Pair → Pair} (hg : PairLinear g) (b : Bool) (p : Pair) :
    pairXor (selectPair b (pairXor (selectPair b p) (g p))) (g (pairXor (selectPair b p) (g p))) =
      pairXor (selectPair b p) (g (g p)) := by
  cases b with
  | true => rw [selectPair_true, selectPair_true, hg, pairXor_cancel_middle]
  | false => rw [selectPair_false, selectPair_false, zero_pairXor, zero_pairXor, zero_pairXor]

theorem polyAt_squareLow (n : Nat) (c : BitVec 128) (p : Pair) :
    polyAt (squareLow n c) p = stepSum n c.getLsbD (stepSum n c.getLsbD p) := by
  induction n generalizing c p with
  | zero => exact polyAt_zero p
  | succ n ih =>
    have hshift : (c >>> 1).getLsbD = fun i => c.getLsbD (i + 1) := by
      funext i
      rw [BitVec.getLsbD_ushiftRight, Nat.add_comm]
    have hbot (q : Pair) : stepSum (n + 1) c.getLsbD q =
        pairXor (selectPair (c.getLsbD 0) q) (xoroStep (stepSum n (c >>> 1).getLsbD q)) := by
      rw [stepSum_succ_bot, hshift]
    rw [squareLow, polyAt_xor, polyAt_ite, polyAt_one, polyAt_mulX, polyAt_mulX, ih, hbot, hbot,
      square_selectPair_add (xoroStep_linear.comp (stepSum_linear _ _)), stepSum_xoroStep]

theorem polyAt_squareLow_iterate (k : Nat) (p : Pair) : polyAt ((squareLow 128)^[k] 2) p = xoroStep^[2 ^ k] p := by
  induction k generalizing p with
  | zero =>
    have hx : (2 : BitVec 128) = mulX 1 := by decide
    rw [Function.iterate_zero_apply, hx, polyAt_mulX, polyAt_one, pow_zero, Function.iterate_one]
  | succ k ih =>
    calc polyAt ((squareLow 128)^[k + 1] 2) p
      _ = polyAt ((squareLow 128)^[k] 2) (polyAt ((squareLow 128)^[k] 2) p) := by
          rw [Function.iterate_succ_apply']
          exact polyAt_squareLow 128 _ p
      _ = xoroStep^[2 ^ (k + 1)] p := by rw [ih, ih, ← Function.iterate_add_apply, ← mul_two, ← pow_succ]

/-- The other computation: 64 squarings of `x` give the jump polynomial. -/
theorem squareLow_iterate_eq_jumpPoly : (squareLow 128)^[64] 2 = jumpPoly := by
  decide +kernel

theorem jumpDistance_eq : jumpDistance = 2 ^ 64 := by
  rw [jumpDistance]

theorem xoroJump_eq_iterate : xoroJump = xoroStep^[jumpDistance] := by
  funext p
  rw [xoroJump_eq_polyAt, ← squareLow_iterate_eq_jumpPoly, polyAt_squareLow_iterate, jumpDistance_eq]

/-! ## What is required of `Jump` and `JUMP` -/

/-- Settles O35: the jump scan sums over the bits of both constants. -/
theorem jumpClosedForm : Obligations.JumpClosedForm := by
  refine ⟨fun p => ?_, by decide, by decide⟩
  rw [xoroJump_eq_polyAt, polyAt, ← foldl_filter_range_eq_stepSum]
  rfl

/-- Settles O36: the jump polynomial is `x^(2^64)` modulo a polynomial that vanishes at `Step`. -/
theorem jumpIsTwoPow64Transitions : Obligations.JumpIsTwoPow64Transitions :=
  ⟨jumpDistance_eq, congrFun xoroJump_eq_iterate,
    fun s hv => ⟨_, exec_seeded rfl hv, congrFun xoroJump_eq_iterate s.pair⟩⟩

/-- Settles O37: `Jump` is an iterate of `Step`, which has each of these properties. -/
theorem jumpProperties : Obligations.JumpProperties := by
  rw [Obligations.JumpProperties, xoroJump_eq_iterate]
  refine ⟨xoroStep_iterate_zero _, xoroStep_linear.iterate _, xoroStep_bijective.iterate _, fun p => ?commutes,
    fun p => ?twice⟩
  case commutes => rw [← Function.iterate_succ_apply, Function.iterate_succ_apply']
  case twice => rw [← Function.iterate_add_apply, two_mul]

/-- Settles O34: the pair `(1, 0)` tells `Jump` from both misreadings. -/
theorem jumpConstantsInOrder : Obligations.JumpConstantsInOrder :=
  ⟨rfl, rfl, ⟨(1, 0), by decide +kernel⟩, ⟨(1, 0), by decide +kernel⟩⟩

/-- Settles O38: the decoder's row, and `JUMP` on an unseeded and on a seeded instance. -/
theorem jumpCommand : Obligations.JumpCommand :=
  ⟨fun _ => decode_of_opField, fun _ => exec_unseeded rfl, fun _ => exec_seeded rfl⟩

end Sys2Proof.Machine

/-! SUPPORT. The state-read commands `RDS0` and `RDS1` (43_state_read.md R160, R161). -/

namespace Sys2Proof.Machine

/-- Settles O39: the decoder's row, and `RDS0` on an unseeded and on a seeded instance, which keeps its pair. -/
theorem rds0Command : Obligations.Rds0Command :=
  ⟨fun _ => decode_of_opField, fun _ => exec_unseeded rfl, fun _ => exec_seeded rfl⟩

/-- Settles O40: the decoder's row, and `RDS1` on an unseeded and on a seeded instance, which keeps its pair. -/
theorem rds1Command : Obligations.Rds1Command :=
  ⟨fun _ => decode_of_opField, fun _ => exec_unseeded rfl, fun _ => exec_seeded rfl⟩

end Sys2Proof.Machine

/-! SUPPORT. The statements of 60_exceptions.md: which command can raise what, precise exceptions, the order of checks,
cloning and partitioning. -/

namespace Sys2Proof.Machine

/-! ## The responses of a command (R170 to R174) -/

theorem needsSeeded_iff (i : Instr) :
    i.needsSeeded = true ↔ i = .next64 ∨ i = .next32 ∨ i = .jump ∨ i = .rds0 ∨ i = .rds1 := by
  cases i <;> simp [Instr.needsSeeded]

/-- Every response a command can give: `OK`, seeded where it needs that; `NotSeeded`; `EntropySourceError`. -/
theorem Effect.response_cases {s t : State} {i : Instr} {r : Response} (h : Effect s i t) (hr : t.rsp = some r) :
    (r.status = .ok ∧ (i.needsSeeded = true → s.valid = true)) ∨
    (r = ⟨.errUnseeded, 0⟩ ∧ i.needsSeeded = true ∧ s.valid = false) ∨
    (r = ⟨.errEntropy, 0⟩ ∧ i = .seede) := by
  cases h with
  | unseeded hi hv => cases hr; exact .inr (.inl ⟨rfl, hi, hv⟩)
  | computed _ hv => cases hr; exact .inl ⟨rfl, fun _ => hv⟩
  | seed _ _ => cases hr; exact .inl ⟨rfl, nofun⟩
  | seedd => cases hr; exact .inl ⟨rfl, nofun⟩
  | drawn _ _ => cases hr; exact .inl ⟨rfl, nofun⟩
  | failed _ => cases hr; exact .inr (.inr ⟨rfl, rfl⟩)
  | waiting _ _ => cases hr

/-- A command that answers an error has written no state word and no flag, is not in flight and gives no data (R176). -/
theorem Effect.precise {s t : State} {i : Instr} {r : Response} (h : Effect s i t) (hr : t.rsp = some r)
    (hst : r.status ≠ .ok) :
    t.s0 = s.s0 ∧ t.s1 = s.s1 ∧ t.valid = s.valid ∧ t.drawPending = false ∧ r.data = 0 := by
  cases h with
  | unseeded _ _ => cases hr; exact ⟨rfl, rfl, rfl, rfl, rfl⟩
  | failed _ => cases hr; exact ⟨rfl, rfl, rfl, rfl, rfl⟩
  | computed _ _ => cases hr; exact absurd rfl hst
  | seed _ _ => cases hr; exact absurd rfl hst
  | seedd => cases hr; exact absurd rfl hst
  | drawn _ _ => cases hr; exact absurd rfl hst
  | waiting _ _ => cases hr

/-- A reserved opcode is answered `{ERR_ILLEGAL, 0}` from every state (R173). -/
theorem runWord_reserved {cw : CommandWord} {e : DecodeError} (h : decode cw = .error e) (s : State) :
    ∃ t, runWord cw s = .next t ∧ t.rsp = some ⟨.errIllegal, 0⟩ :=
  ⟨_, runWord_eq cw s, by rw [wordState_error h]; rfl⟩

/-- Settles O41: an unseeded core refuses the five commands, and no other way a command can end answers
`ERR_UNSEEDED`. -/
theorem unseededCommandsRefused : Obligations.UnseededCommandsRefused := by
  refine ⟨fun i s => ⟨needsSeeded_iff i, fun hi hv => ⟨_, exec_unseeded hi hv, rfl, rfl⟩⟩, ?_⟩
  intro i s t r hexec hr hst
  obtain ⟨hok, _⟩ | ⟨_, hrefused⟩ | ⟨rfl, _⟩ := (effect_of_exec hexec).response_cases hr
  · exact absurd (hst.symm.trans hok) nofun
  · exact hrefused
  · cases hst

/-- Settles O42: the blank cells by the three responses a command can give; the others by an unseeded core and by a
core without a provider. -/
theorem whichCommandRaisesWhat : Obligations.WhichCommandRaisesWhat := by
  refine ⟨?blank, ?entropy, ?unseeded, fun _ _ => runWord_reserved⟩
  case blank =>
    intro i s t r hexec hr
    obtain ⟨hok, _⟩ | ⟨rfl, hi, hv⟩ | ⟨rfl, rfl⟩ := (effect_of_exec hexec).response_cases hr
    · simp [hok]
    · exact ⟨nofun, nofun, fun _ => hi, fun _ hseeded => absurd (hv.symm.trans (hseeded hi)) nofun⟩
    · exact ⟨nofun, fun _ => rfl, nofun, fun hne => absurd rfl hne⟩
  case entropy =>
    obtain ⟨_, _, _, habsent⟩ := seedeCommand
    exact ⟨{ State.reset with hasEntropy := false }, _, habsent _ rfl, rfl⟩
  case unseeded => exact fun i hi => ⟨State.reset, _, exec_unseeded hi rfl, rfl⟩

/-! ## Precise exceptions and the order of checks (R176 to R178) -/

/-- Settles O43: a decoded command that answers an error keeps the core, and so does a reserved word. -/
theorem exceptionsArePrecise : Obligations.ExceptionsArePrecise := by
  intro s t r hruns hstep hr hst
  obtain ⟨_, rfl⟩ | ⟨hp, hc, _⟩ | ⟨cw, rest, i, _, _, _, rfl⟩ | ⟨cw, rest, e, _, _, _, rfl⟩ := step_cases hstep
  · exact (effect_execState .seede s).precise hr hst
  · obtain hfly | hne := hruns
    · exact absurd (hp.symm.trans hfly) nofun
    · exact absurd hc hne
  · exact (effect_execState i (accept rest s)).precise hr hst
  · cases hr
    exact ⟨rfl, rfl, rfl, rfl, rfl⟩

/-- Settles O44: a reserved word is answered whatever the state, and the other two clauses follow from the responses a
command can give. -/
theorem orderOfChecks : Obligations.OrderOfChecks := by
  refine ⟨fun s _ _ hd => runWord_reserved hd s, ?seede, ?needsSeeded⟩
  case seede =>
    intro s t r hexec hr
    obtain ⟨hok, _⟩ | ⟨_, hi, _⟩ | ⟨rfl, _⟩ := (effect_of_exec hexec).response_cases hr
    · simp [hok]
    · cases hi
    · exact nofun
  case needsSeeded =>
    intro i s t r hi hexec hr
    obtain ⟨hok, hv⟩ | ⟨rfl, _, hv⟩ | ⟨_, rfl⟩ := (effect_of_exec hexec).response_cases hr
    · exact .inl ⟨hok, hv hi⟩
    · exact .inr ⟨rfl, hv⟩
    · cases hi

/-- Settles O12: a run is the state function of the step, iterated. -/
theorem everyStepHasNextState : Obligations.EveryStepHasNextState := fun n s => ⟨_, run_eq n s⟩

/-- Settles O10: with nothing in flight and nothing presented, a step holds the state (R192). -/
theorem idleCoreHoldsState : Obligations.IdleCoreHoldsState := fun _ => step_idle

/-! ## Transactions of a host (30_encoding.md R70) -/

/-- A seeded instance with no command in flight, at the pair `p`. -/
structure State.IdleAt (s : State) (p : Pair) : Prop where
  valid : s.valid = true
  idle : s.drawPending = false
  pair : s.pair = p

theorem State.IdleAt.sameCore {s t : State} {p : Pair} (hs : s.IdleAt p) (ht : t.IdleAt p) : s.SameCore t := by
  obtain ⟨h0, h1⟩ := Prod.mk.inj (hs.pair.trans ht.pair.symm)
  exact ⟨h0, h1, hs.valid.trans ht.valid.symm, hs.idle.trans ht.idle.symm⟩

/-- Issuing to an idle instance runs the command; the host's own list is as it was. -/
theorem issue_idle {s : State} (i : Instr) (hp : s.drawPending = false) :
    issue i s = some (execState i (accept s.commands s)) := by
  rw [issue_of_idle i hp, wordState_ok (decode_encode i)]
  rfl

theorem transact_seed {s : State} (hp : s.drawPending = false) (a b : Word) :
    ∃ t, transact (.seed a b) s = some (dataNone, t) ∧ t.IdleAt (a, b) := by
  refine ⟨execState (.seed a b) (accept s.commands s), ?_, rfl, rfl, rfl⟩
  rw [transact, issue_idle _ hp]
  rfl

theorem transact_idleAt {s : State} {p : Pair} (h : s.IdleAt p) {i : Instr} (hi : i.needsSeeded = true) :
    ∃ t, transact i s = some (dataAfter i p, t) ∧ t.IdleAt (pairAfter i p) := by
  obtain ⟨hv, hp, rfl⟩ := h
  have hexec := execState_seeded hi (s := accept s.commands s) hv
  refine ⟨execState i (accept s.commands s), ?_, ?_⟩
  · rw [transact, issue_idle i hp, hexec]
    rfl
  · rw [hexec]
    exact ⟨hv, rfl, rfl⟩

theorem transact_unseeded {s : State} (hv : s.valid = false) (hp : s.drawPending = false) {i : Instr}
    (hi : i.needsSeeded = true) : transact i s = none := by
  rw [transact, issue_idle i hp, execState_unseeded hi (s := accept s.commands s) hv]
  rfl

/-! ## Cloning and partitioning (R191) -/

theorem cloneInto_idleAt {a b : State} {p : Pair} (ha : a.IdleAt p) (hb : b.drawPending = false) :
    ∃ a1 b1, cloneInto a b = some (a1, b1) ∧ a1.IdleAt p ∧ b1.IdleAt p := by
  obtain ⟨a1, h0, ha1⟩ := transact_idleAt ha (i := .rds0) rfl
  obtain ⟨a2, h1, ha2⟩ := transact_idleAt ha1 (i := .rds1) rfl
  obtain ⟨b1, hseed, hb1⟩ := transact_seed hb (dataAfter .rds0 p) (dataAfter .rds1 p)
  exact ⟨a2, b1, by simp only [cloneInto, h0, h1, pairAfter, hseed], ha2, hb1⟩

/-- Settles O56: the two reads give both words and keep the original, and `SEED` puts them in the clone; an unseeded
original refuses the first read. -/
theorem cloneCopiesState : Obligations.CloneCopiesState := by
  refine ⟨fun a b hv ha hb => ?seeded, fun a b hv ha => ?unseeded⟩
  case seeded =>
    have hat : a.IdleAt a.pair := ⟨hv, ha, rfl⟩
    obtain ⟨a1, b1, hclone, ha1, hb1⟩ := cloneInto_idleAt hat hb
    exact ⟨a1, b1, hclone, ha1.sameCore hat, hb1.sameCore hat⟩
  case unseeded => rw [cloneInto, transact_unseeded hv ha rfl]

/-- The worker at index `w` of the list is left where `w + 1` jumps take the parent. -/
theorem partitionStreams_idleAt {ws : List State} (hws : ∀ w ∈ ws, w.drawPending = false) {s : State} {p : Pair}
    (hs : s.IdleAt p) :
    ∃ s1 ws1, partitionStreams s ws = some (s1, ws1) ∧ ws1.length = ws.length ∧
      ∀ (w : Nat) (t : State), ws1[w]? = some t → t.IdleAt (xoroJump^[w + 1] p) := by
  induction ws generalizing s p with
  | nil => exact ⟨s, [], rfl, rfl, nofun⟩
  | cons w ws ih =>
    obtain ⟨hw, hws⟩ := List.forall_mem_cons.mp hws
    obtain ⟨s1, hjump, hs1⟩ := transact_idleAt hs (i := .jump) rfl
    obtain ⟨s2, w1, hclone, hs2, hw1⟩ := cloneInto_idleAt hs1 hw
    obtain ⟨s3, ws1, hrest, hlength, hworkers⟩ := ih hws hs2
    refine ⟨s3, w1 :: ws1, by simp only [partitionStreams, hjump, hclone, hrest], by simp [hlength], ?_⟩
    intro k t hk
    cases k with
    | zero => cases hk; exact hw1
    | succ k => exact hworkers k t hk

/-- Settles O57: worker `w` is the parent after `w` jumps, and a jump is `2^64` transitions. -/
theorem partitionStartsStreams : Obligations.PartitionStartsStreams := by
  intro p ws hv hp hws
  obtain ⟨p1, ws1, hpart, hlength, hworkers⟩ := partitionStreams_idleAt hws (s := p) ⟨hv, hp, rfl⟩
  refine ⟨p1, ws1, hpart, hlength, fun w t hw => ?_⟩
  obtain ⟨hvalid, _, hpair⟩ := hworkers w t hw
  refine ⟨hvalid, ?_⟩
  rw [hpair, xoroJump_eq_iterate, ← Function.iterate_mul, Nat.mul_comm]

end Sys2Proof.Machine

/-! SUPPORT. The reset input (70_reset_and_hazards.md R200, R201). -/

namespace Sys2Proof.Machine

/-- Settles O50: the reset input writes the core alone and leaves nothing in flight, so the next step runs the host's next
command (R58); accepting it changes no response, the port being empty already. -/
theorem resetInputRule : Obligations.ResetInputRule := by
  intro s
  refine ⟨resetInput_valid s, resetInput_drawPending s, resetInput_rsp s, ?world, resetInput_index s, ?nextCommand⟩
  case world => exact ⟨resetInput_commands s, resetInput_hasEntropy s, resetInput_answers s⟩
  case nextCommand =>
    intro i rest hc
    exact stepRunsDecodedCommand (resetInput s) (encode i) rest i (resetInput_drawPending s) hc (decode_encode i)

end Sys2Proof.Machine
